-- ==== Sys2Proof/Word.lean ====
section
/-! DEFINITION. The word types of the engine: a byte, the two result widths and the append operand (R8, R80), whose widths
are the spec's; and the two quantities whose widths are parameters (R6, `TIME_W` and `PEER_W`), as naturals. -/

namespace Sys2Proof

/-- R8: a byte is 8 bits, unsigned. Bundle identifiers, indices, offsets and data are bytes (R80). -/
abbrev Byte := BitVec 8

/-- A checksum, and the `res_a` port (R80, R101). -/
abbrev Half := BitVec 16

/-- The `len` and `res_b` ports, and the registers `active_size` and `tx_cursor`: 9 bits (R25, R30, R80). -/
abbrev Len := BitVec 9

/-- The `val` operand of the appends (R80, R83). -/
abbrev Word := BitVec 32

/-- `now` and the two timestamps, in milliseconds (R7, D15): a natural, because their width `TIME_W` is a parameter (R6).
Registers hold values below `2^TIME_W`; an operand is narrowed to its port where it is used (assumption 4). -/
abbrev Time := Nat

/-- The opaque tag of a peer (R26, D24): a natural, because its width `PEER_W` is a parameter (R6, assumption 4). -/
abbrev Peer := Nat

/-- R10, R50: the three byte memories. -/
inductive Space where
  | buf0
  | buf1
  | txbuf
deriving DecidableEq, Repr

end Sys2Proof
end

