-- ==== Sys2Proof/Config.lean ====
section
/-! DEFINITION. What an instance of the engine fixes: the sizes of R5, the parameters of R6 with their spec defaults, the
default CRC table of R102, and the free values (constants with no body) for what the spec leaves OPEN or unspecified. -/

namespace Sys2Proof

/-! ## Fixed sizes (R5) -/

/-- R5: size of each of the three buffers, and the longest frame. -/
abbrev Config.bufSize : Nat := 256
/-- R5: inbound header length; the first bundle's length byte is there (R73, R126). -/
abbrev Config.inHdr : Nat := 3
/-- R5: outbound header length and reset value of the cursor. -/
abbrev Config.outHdr : Nat := 6
/-- R5: length of the CRC trailer. -/
abbrev Config.crcLen : Nat := 2
/-- R5: `WD_TIMEOUT_MS`. -/
abbrev Config.wdTimeoutMs : Nat := 250
/-- R5: `WD_STARTUP_MS`. -/
abbrev Config.wdStartupMs : Nat := 500
/-- R5: `HWM_U16`. -/
abbrev Config.hwmU16 : Nat := 251
/-- R5: the type tag of a 1-byte bundle. -/
abbrev Config.tagU8 : Byte := 0x02
/-- R5: the type tag of a 2-byte bundle. -/
abbrev Config.tagU16 : Byte := 0x03
/-- R5: the type tag of a 4-byte bundle. -/
abbrev Config.tagI32 : Byte := 0x05

/-! ## The default CRC table (R102, D3): `0xA001`, the reflected IBM polynomial -/

/-- R102: the default entries 0x00 to 0x1F, eight a line. -/
def Config.crcRows0 : List Half :=
  [0x0000, 0xC0C1, 0xC181, 0x0140, 0xC301, 0x03C0, 0x0280, 0xC241,
   0xC601, 0x06C0, 0x0780, 0xC741, 0x0500, 0xC5C1, 0xC481, 0x0440,
   0xCC01, 0x0CC0, 0x0D80, 0xCD41, 0x0F00, 0xCFC1, 0xCE81, 0x0E40,
   0x0A00, 0xCAC1, 0xCB81, 0x0B40, 0xC901, 0x09C0, 0x0880, 0xC841]

/-- R102: the default entries 0x20 to 0x3F, eight a line. -/
def Config.crcRows1 : List Half :=
  [0xD801, 0x18C0, 0x1980, 0xD941, 0x1B00, 0xDBC1, 0xDA81, 0x1A40,
   0x1E00, 0xDEC1, 0xDF81, 0x1F40, 0xDD01, 0x1DC0, 0x1C80, 0xDC41,
   0x1400, 0xD4C1, 0xD581, 0x1540, 0xD701, 0x17C0, 0x1680, 0xD641,
   0xD201, 0x12C0, 0x1380, 0xD341, 0x1100, 0xD1C1, 0xD081, 0x1040]

/-- R102: the default entries 0x40 to 0x5F, eight a line. -/
def Config.crcRows2 : List Half :=
  [0xF001, 0x30C0, 0x3180, 0xF141, 0x3300, 0xF3C1, 0xF281, 0x3240,
   0x3600, 0xF6C1, 0xF781, 0x3740, 0xF501, 0x35C0, 0x3480, 0xF441,
   0x3C00, 0xFCC1, 0xFD81, 0x3D40, 0xFF01, 0x3FC0, 0x3E80, 0xFE41,
   0xFA01, 0x3AC0, 0x3B80, 0xFB41, 0x3900, 0xF9C1, 0xF881, 0x3840]

/-- R102: the default entries 0x60 to 0x7F, eight a line. -/
def Config.crcRows3 : List Half :=
  [0x2800, 0xE8C1, 0xE981, 0x2940, 0xEB01, 0x2BC0, 0x2A80, 0xEA41,
   0xEE01, 0x2EC0, 0x2F80, 0xEF41, 0x2D00, 0xEDC1, 0xEC81, 0x2C40,
   0xE401, 0x24C0, 0x2580, 0xE541, 0x2700, 0xE7C1, 0xE681, 0x2640,
   0x2200, 0xE2C1, 0xE381, 0x2340, 0xE101, 0x21C0, 0x2080, 0xE041]

/-- R102: the default entries 0x80 to 0x9F, eight a line. -/
def Config.crcRows4 : List Half :=
  [0xA001, 0x60C0, 0x6180, 0xA141, 0x6300, 0xA3C1, 0xA281, 0x6240,
   0x6600, 0xA6C1, 0xA781, 0x6740, 0xA501, 0x65C0, 0x6480, 0xA441,
   0x6C00, 0xACC1, 0xAD81, 0x6D40, 0xAF01, 0x6FC0, 0x6E80, 0xAE41,
   0xAA01, 0x6AC0, 0x6B80, 0xAB41, 0x6900, 0xA9C1, 0xA881, 0x6840]

/-- R102: the default entries 0xA0 to 0xBF, eight a line. -/
def Config.crcRows5 : List Half :=
  [0x7800, 0xB8C1, 0xB981, 0x7940, 0xBB01, 0x7BC0, 0x7A80, 0xBA41,
   0xBE01, 0x7EC0, 0x7F80, 0xBF41, 0x7D00, 0xBDC1, 0xBC81, 0x7C40,
   0xB401, 0x74C0, 0x7580, 0xB541, 0x7700, 0xB7C1, 0xB681, 0x7640,
   0x7200, 0xB2C1, 0xB381, 0x7340, 0xB101, 0x71C0, 0x7080, 0xB041]

/-- R102: the default entries 0xC0 to 0xDF, eight a line. -/
def Config.crcRows6 : List Half :=
  [0x5000, 0x90C1, 0x9181, 0x5140, 0x9301, 0x53C0, 0x5280, 0x9241,
   0x9601, 0x56C0, 0x5780, 0x9741, 0x5500, 0x95C1, 0x9481, 0x5440,
   0x9C01, 0x5CC0, 0x5D80, 0x9D41, 0x5F00, 0x9FC1, 0x9E81, 0x5E40,
   0x5A00, 0x9AC1, 0x9B81, 0x5B40, 0x9901, 0x59C0, 0x5880, 0x9841]

/-- R102: the default entries 0xE0 to 0xFF, eight a line. -/
def Config.crcRows7 : List Half :=
  [0x8801, 0x48C0, 0x4980, 0x8941, 0x4B00, 0x8BC1, 0x8A81, 0x4A40,
   0x4E00, 0x8EC1, 0x8F81, 0x4F40, 0x8D01, 0x4DC0, 0x4C80, 0x8C41,
   0x4400, 0x84C1, 0x8581, 0x4540, 0x8701, 0x47C0, 0x4680, 0x8641,
   0x8201, 0x42C0, 0x4380, 0x8341, 0x4100, 0x81C1, 0x8081, 0x4040]

/-- R102: the 256 default entries, index 0 first. PRESUMED by the spec itself (G1, G2 of
`93_implementation_defined.md`): see assumption 3. -/
def Config.defaultCrcTable : Vector Half 256 :=
  ⟨(Config.crcRows0 ++ Config.crcRows1 ++ Config.crcRows2 ++ Config.crcRows3 ++
    Config.crcRows4 ++ Config.crcRows5 ++ Config.crcRows6 ++ Config.crcRows7).toArray, by simp only [List.size_toArray, List.length_append]; rfl⟩

/-! ## The parameters of R6 -/

/-- R6: the configuration parameters, fixed before reset is released and constant afterwards (R222). They are
arguments of the model: a state carries them (assumption 1), so a statement about every state holds for every
configuration and every CRC table. -/
structure Config where
  /-- compared with frame byte 1 on decode, written to byte 1 on encode -/
  protocolVersion : Byte
  /-- `messageType` of a control frame -/
  msgControl : Byte
  /-- `messageType` written to byte 0 of a feedback frame -/
  msgFeedback : Byte
  /-- byte 2 of a feedback frame -/
  deviceId : Byte
  /-- byte 3 of a feedback frame -/
  firmwareVersion : Byte
  /-- the CRC lookup table -/
  crcTable : Vector Half 256
  /-- `MIN_FRAME_LEN`, the smallest `len` the decoder accepts -/
  minFrameLen : Len
  /-- `HWM_U8`, the high-water mark of the 1-byte append -/
  hwmU8 : Len
  /-- `HWM_I32`, the high-water mark of the 4-byte append -/
  hwmI32 : Len
  /-- `TIME_W`, the width of `now` and of the two stored timestamps -/
  timeW : Nat
  /-- `PEER_W`, the width of the peer tag -/
  peerW : Nat
deriving DecidableEq, Repr

/-- R80: what a time input of `TIME_W` bits carries of a number: its low `TIME_W` bits. -/
def Config.clipTime (cfg : Config) (t : Time) : Time := t % 2 ^ cfg.timeW

/-- R80: what a tag input of `PEER_W` bits carries of a number. -/
def Config.clipPeer (cfg : Config) (q : Peer) : Peer := q % 2 ^ cfg.peerW

/-! ## Free values -/

/-- OPEN (R6, U9): no value in the source. -/
opaque Config.openMsgFeedback : Byte
/-- OPEN (R6, U9): no value in the source. -/
opaque Config.openDeviceId : Byte
/-- OPEN (R6, U9): no value in the source. -/
opaque Config.openFirmwareVersion : Byte

/-- R220, U4: the byte at an address of a memory after reset number `n`; nothing is known of it (assumption 5). -/
opaque Config.resetByte : Nat → Space → Nat → Byte
/-- R220, U5: `peer` after reset number `n`, before its width is cut to `PEER_W` (assumption 6). -/
opaque Config.resetPeer : Nat → Peer
/-- R220, U5: `last_ctrl_ts` after reset number `n`, before its width is cut to `TIME_W` (assumption 6). -/
opaque Config.resetLastCtrl : Nat → Time

/-- The configuration that `State.reset` carries: the values of R6 where the spec gives one (D3, D4, D6, D15, D18, D24;
assumption 3), a free value where it leaves the parameter OPEN (assumption 2). -/
def Config.deployed : Config where
  protocolVersion := 0x02
  msgControl := 0x01
  msgFeedback := Config.openMsgFeedback
  deviceId := Config.openDeviceId
  firmwareVersion := Config.openFirmwareVersion
  crcTable := Config.defaultCrcTable
  minFrameLen := 5
  hwmU8 := 252
  hwmI32 := 249
  timeW := 32
  peerW := 48

end Sys2Proof
end

