-- ==== Sys2Proof/Syntax.lean ====
section
/-! DEFINITION. The command port's input signals (R80), the operations with their operands (R81, R82) and the two forms
an encoding takes (the `format` column of `opcode_table.json`): a command on the port, or a bundle on the wire. -/

namespace Sys2Proof

/-- R80: one sample of the input ports. -/
structure Ports where
  rst : Bool
  cmdValid : Bool
  op : BitVec 5
  sel : BitVec 2
  id : Byte
  idx : Byte
  off : Byte
  wdata : Byte
  len : Len
  val : Word
  now : Time
  peerIn : Peer
deriving DecidableEq, Repr

/-- A sample that presents a command whose op code and operands are all zero. -/
def Ports.blank : Ports where
  rst := false
  cmdValid := true
  op := 0
  sel := 0
  id := 0
  idx := 0
  off := 0
  wdata := 0
  len := 0
  val := 0
  now := 0
  peerIn := 0

/-- One constructor per row of `opcode_table.json`: the 19 operations of R81, the 13 reserved op codes of R84 and the
three wire bundles of R74. An operation carries exactly the operands its row of R82 lists. -/
inductive Instr where
  | crc16 (sel : BitVec 2) (len : Len)
  | rxBegin
  | rxWrite (off wdata : Byte)
  | rxDecode (len : Len)
  | rxCommit (len : Len)
  | actInfo
  | actRead (off : Byte)
  | bndLocate (id : Byte)
  | bndComp (id idx : Byte)
  | bndSize (id : Byte)
  | wdEval (now : Time)
  | txAppend8 (id : Byte) (value : Byte)
  | txAppend16 (id : Byte) (value : Half)
  | txAppend32 (id : Byte) (value : Word)
  | txRequest
  | txFlush (now : Time)
  | txInfo
  | txRead (off : Byte)
  | poll (len : Len) (now : Time) (peerIn : Peer)
  | reserved00
  | reserved14
  | reserved15
  | reserved16
  | reserved17
  | reserved18
  | reserved19
  | reserved1A
  | reserved1B
  | reserved1C
  | reserved1D
  | reserved1E
  | reserved1F
  | bundleU8 (id : Byte) (value : Byte)
  | bundleU16 (id : Byte) (value : Half)
  | bundleI32 (id : Byte) (value : Word)
deriving DecidableEq, Repr

/-- The two encodings of this hardware (`30_encoding.md`): Part B, a command with its operands on their own ports, and
Part A, the bytes of one bundle on the wire. -/
inductive Encoded where
  | command (p : Ports)
  | wire (bytes : List Byte)
deriving DecidableEq, Repr

/-- Why bytes are not one outbound bundle (R74): no tag byte, a tag that is never produced, bytes missing, or bytes
left over. A command is never rejected: every op code selects a row of the table (R81, R84). -/
inductive DecodeError where
  | emptyBundle
  | unknownTag (tag : Byte)
  | truncatedBundle (tag : Byte)
  | trailingBytes
deriving DecidableEq, Repr

/-- R87: the two pseudo-operations, pure abbreviations for sequences of operations. -/
inductive Pseudo where
  | rxLoad (bytes : List Byte)
  | rxFrame (bytes : List Byte) (now : Time) (peerIn : Peer)
deriving DecidableEq, Repr

end Sys2Proof
end

