-- ==== Sys2Proof/WellFormed.lean ====
section
/-! DEFINITION. Which commands are well formed, in the spec's own sense: R200 gives `ILLEGAL` to a "malformed command",
that is a reserved op code (R84) or an operand out of range (R85). Widths need no check: an operand has its port's width
by its type, but for `now` and `peer_in`, whose widths are parameters: `Ports.fits`. Also which configurations are legal,
and the spec's word "well-formed" for a bundle region (R134). -/

namespace Sys2Proof

/-- R84, R85, R200: a command the engine does not answer with `ILLEGAL`. `len > 256` is out of range for `CRC16` and
`RX.COMMIT` only: `RX.DECODE` and `POLL` answer `REJECTED`. -/
def Instr.wellFormed : Instr → Bool
  | .crc16 sel len => sel ≠ 3 && len.toNat ≤ 256
  | .rxBegin => true
  | .rxWrite _ _ => true
  | .rxDecode _ => true
  | .rxCommit len => len.toNat ≤ 256
  | .actInfo => true
  | .actRead _ => true
  | .bndLocate _ => true
  | .bndComp _ _ => true
  | .bndSize _ => true
  | .wdEval _ => true
  | .txAppend8 _ _ => true
  | .txAppend16 _ _ => true
  | .txAppend32 _ _ => true
  | .txRequest => true
  | .txFlush _ => true
  | .txInfo => true
  | .txRead _ => true
  | .poll _ _ _ => true
  | .reserved00 => false
  | .reserved14 => false
  | .reserved15 => false
  | .reserved16 => false
  | .reserved17 => false
  | .reserved18 => false
  | .reserved19 => false
  | .reserved1A => false
  | .reserved1B => false
  | .reserved1C => false
  | .reserved1D => false
  | .reserved1E => false
  | .reserved1F => false
  | .bundleU8 _ _ => true
  | .bundleU16 _ _ => true
  | .bundleI32 _ _ => true

/-- R6, R80: the two inputs of a parameter's width carry numbers of that width. -/
def Ports.fits (cfg : Config) (p : Ports) : Bool := p.now < 2 ^ cfg.timeW && p.peerIn < 2 ^ cfg.peerW

/-- R6, with what keeps the rules defined: a frame holds header and trailer (D4: at least 5 bytes), and a bundle that an
append accepts leaves room for the two CRC bytes in 256 (R165: at most 252 and 249, so R35 (a) holds). The values of R6
are 5, 252 and 249 themselves. -/
abbrev Config.legal (cfg : Config) : Prop :=
  5 ≤ cfg.minFrameLen.toNat ∧ cfg.hwmU8.toNat ≤ 252 ∧ cfg.hwmI32.toNat ≤ 249

/-- R87: `k <= 255`, so a load fits the 256-byte slot; an empty load has no last byte `bk` and is not of the form. -/
def Pseudo.wellFormed : Pseudo → Bool
  | .rxLoad bytes => !bytes.isEmpty && bytes.length ≤ Config.bufSize
  | .rxFrame bytes _ _ => !bytes.isEmpty && bytes.length ≤ Config.bufSize

/-- R73: a bundle of an inbound frame: identifier and payload. Its length byte is `1 + payload bytes`, which fits a byte
only for payloads of at most 254 bytes. -/
structure Bundle where
  id : Byte
  payload : List Byte
deriving DecidableEq, Repr

/-- R73, R78 (a): a producer can write this bundle, with a length byte of at least 1. -/
def Bundle.wellFormed (b : Bundle) : Bool := b.payload.length ≤ 254

end Sys2Proof
end

