-- ==== Sys2Proof/Decode.lean ====
section
/-! DEFINITION. Decoding and encoding, from the tables of `30_encoding.md`: the op code map R81 with the operands R82
lists, the operand slices of R83, the outbound bundles of R74, inbound bundles R73, and the pseudo-operations R87.
Decoding a command is total and never rejects; decoding wire bytes is total and rejects by name. -/

namespace Sys2Proof

/-! ## Byte order (R53) -/

/-- R53: the two bytes of a 16-bit value, most significant first. -/
def be16 (v : Half) : List Byte := [v.extractLsb' 8 8, v.extractLsb' 0 8]

/-- R53, R83: the four bytes of a 32-bit value, most significant first. -/
def be32 (v : Word) : List Byte :=
  [v.extractLsb' 24 8, v.extractLsb' 16 8, v.extractLsb' 8 8, v.extractLsb' 0 8]

/-- R111: `{hi, lo}`, the 16-bit number `256 * hi + lo`. -/
def beHalf (hi lo : Byte) : Half := hi ++ lo

/-- The 32-bit number whose bytes, most significant first, are these. -/
def beWord (b3 b2 b1 b0 : Byte) : Word := b3 ++ b2 ++ b1 ++ b0

/-! ## The decoder -/

/-- R81, R82, R83, R84: the operation a command selects. It reads the ports its row of R82 lists and no
other. `op` has 5 bits, so the last arm is 0x1F and nothing else. -/
def decodeCommand (p : Ports) : Instr :=
  match p.op.toNat with
  | 0x00 => .reserved00
  | 0x01 => .crc16 p.sel p.len
  | 0x02 => .rxBegin
  | 0x03 => .rxWrite p.off p.wdata
  | 0x04 => .rxDecode p.len
  | 0x05 => .rxCommit p.len
  | 0x06 => .actInfo
  | 0x07 => .actRead p.off
  | 0x08 => .bndLocate p.id
  | 0x09 => .bndComp p.id p.idx
  | 0x0A => .bndSize p.id
  | 0x0B => .wdEval p.now
  | 0x0C => .txAppend8 p.id (p.val.extractLsb' 0 8)
  | 0x0D => .txAppend16 p.id (p.val.extractLsb' 0 16)
  | 0x0E => .txAppend32 p.id p.val
  | 0x0F => .txRequest
  | 0x10 => .txFlush p.now
  | 0x11 => .txInfo
  | 0x12 => .txRead p.off
  | 0x13 => .poll p.len p.now p.peerIn
  | 0x14 => .reserved14
  | 0x15 => .reserved15
  | 0x16 => .reserved16
  | 0x17 => .reserved17
  | 0x18 => .reserved18
  | 0x19 => .reserved19
  | 0x1A => .reserved1A
  | 0x1B => .reserved1B
  | 0x1C => .reserved1C
  | 0x1D => .reserved1D
  | 0x1E => .reserved1E
  | _ => .reserved1F

/-- R74: one outbound bundle from its bytes and the bytes after it. "typeTag encodes the payload width … so a decoder can
self-describe bundle lengths without a side table". -/
def decodeBundle : List Byte → Except DecodeError (Instr × List Byte)
  | [] => .error .emptyBundle
  | tag :: rest =>
    if tag = Config.tagU8 then
      match rest with
      | id :: v :: more => .ok (.bundleU8 id v, more)
      | _ => .error (.truncatedBundle tag)
    else if tag = Config.tagU16 then
      match rest with
      | id :: v1 :: v0 :: more => .ok (.bundleU16 id (beHalf v1 v0), more)
      | _ => .error (.truncatedBundle tag)
    else if tag = Config.tagI32 then
      match rest with
      | id :: v3 :: v2 :: v1 :: v0 :: more => .ok (.bundleI32 id (beWord v3 v2 v1 v0), more)
      | _ => .error (.truncatedBundle tag)
    else .error (.unknownTag tag)

/-- The decoder of both encodings. Wire bytes must be one bundle with nothing after it. -/
def decode : Encoded → Except DecodeError Instr
  | .command p => .ok (decodeCommand p)
  | .wire bytes =>
    match decodeBundle bytes with
    | .ok (i, []) => .ok i
    | .ok (_, _ :: _) => .error .trailingBytes
    | .error e => .error e

/-! ## The encoder -/

/-- R74: the bytes of the byte form. -/
def bundleBytesU8 (id value : Byte) : List Byte := [Config.tagU8, id, value]

/-- R74: the bytes of the 16-bit form, value most significant byte first. -/
def bundleBytesU16 (id : Byte) (value : Half) : List Byte := Config.tagU16 :: id :: be16 value

/-- R74: the bytes of the 32-bit form, value most significant byte first (D19). -/
def bundleBytesI32 (id : Byte) (value : Word) : List Byte := Config.tagI32 :: id :: be32 value

/-- R81, R82, R74: the encoding of each row. A command's unlisted ports are zero. -/
def encode : Instr → Encoded
  | .reserved00 => .command { Ports.blank with op := 0b00000#5 }
  | .crc16 sel len => .command { Ports.blank with op := 0b00001#5, sel := sel, len := len }
  | .rxBegin => .command { Ports.blank with op := 0b00010#5 }
  | .rxWrite off wdata => .command { Ports.blank with op := 0b00011#5, off := off, wdata := wdata }
  | .rxDecode len => .command { Ports.blank with op := 0b00100#5, len := len }
  | .rxCommit len => .command { Ports.blank with op := 0b00101#5, len := len }
  | .actInfo => .command { Ports.blank with op := 0b00110#5 }
  | .actRead off => .command { Ports.blank with op := 0b00111#5, off := off }
  | .bndLocate id => .command { Ports.blank with op := 0b01000#5, id := id }
  | .bndComp id idx => .command { Ports.blank with op := 0b01001#5, id := id, idx := idx }
  | .bndSize id => .command { Ports.blank with op := 0b01010#5, id := id }
  | .wdEval now => .command { Ports.blank with op := 0b01011#5, now := now }
  | .txAppend8 id v => .command { Ports.blank with op := 0b01100#5, id := id, val := v.setWidth 32 }
  | .txAppend16 id v => .command { Ports.blank with op := 0b01101#5, id := id, val := v.setWidth 32 }
  | .txAppend32 id v => .command { Ports.blank with op := 0b01110#5, id := id, val := v }
  | .txRequest => .command { Ports.blank with op := 0b01111#5 }
  | .txFlush now => .command { Ports.blank with op := 0b10000#5, now := now }
  | .txInfo => .command { Ports.blank with op := 0b10001#5 }
  | .txRead off => .command { Ports.blank with op := 0b10010#5, off := off }
  | .poll len now peer => .command { Ports.blank with op := 0b10011#5, len := len, now := now, peerIn := peer }
  | .reserved14 => .command { Ports.blank with op := 0b10100#5 }
  | .reserved15 => .command { Ports.blank with op := 0b10101#5 }
  | .reserved16 => .command { Ports.blank with op := 0b10110#5 }
  | .reserved17 => .command { Ports.blank with op := 0b10111#5 }
  | .reserved18 => .command { Ports.blank with op := 0b11000#5 }
  | .reserved19 => .command { Ports.blank with op := 0b11001#5 }
  | .reserved1A => .command { Ports.blank with op := 0b11010#5 }
  | .reserved1B => .command { Ports.blank with op := 0b11011#5 }
  | .reserved1C => .command { Ports.blank with op := 0b11100#5 }
  | .reserved1D => .command { Ports.blank with op := 0b11101#5 }
  | .reserved1E => .command { Ports.blank with op := 0b11110#5 }
  | .reserved1F => .command { Ports.blank with op := 0b11111#5 }
  | .bundleU8 id v => .wire (bundleBytesU8 id v)
  | .bundleU16 id v => .wire (bundleBytesU16 id v)
  | .bundleI32 id v => .wire (bundleBytesI32 id v)

/-! ## Which ports a row lists (R80, R82) -/

/-- R82's column "operands read", as the sample with every unlisted port set to zero. `val` keeps the bits R83 uses. -/
def Ports.onlyListed (p : Ports) : Ports :=
  let b := { Ports.blank with op := p.op }
  match p.op.toNat with
  | 0x01 => { b with sel := p.sel, len := p.len }
  | 0x03 => { b with off := p.off, wdata := p.wdata }
  | 0x04 => { b with len := p.len }
  | 0x05 => { b with len := p.len }
  | 0x07 => { b with off := p.off }
  | 0x08 => { b with id := p.id }
  | 0x09 => { b with id := p.id, idx := p.idx }
  | 0x0A => { b with id := p.id }
  | 0x0B => { b with now := p.now }
  | 0x0C => { b with id := p.id, val := p.val &&& 0x000000FF }
  | 0x0D => { b with id := p.id, val := p.val &&& 0x0000FFFF }
  | 0x0E => { b with id := p.id, val := p.val }
  | 0x10 => { b with now := p.now }
  | 0x12 => { b with off := p.off }
  | 0x13 => { b with len := p.len, now := p.now, peerIn := p.peerIn }
  | _ => b

/-! ## Inbound bundles (R73) and pseudo-operations (R87) -/

/-- R73: `[length:1][bundleId:1][payload: length-1 bytes]`, the length counting the identifier and the payload. -/
def Bundle.bytes (b : Bundle) : List Byte := BitVec.ofNat 8 (b.payload.length + 1) :: b.id :: b.payload

/-- R73: "Bundles are packed contiguously with no padding and no explicit count field". -/
def bundleRegion (bs : List Bundle) : List Byte := bs.flatMap Bundle.bytes

/-- R87: `RX.LOAD` from offset `k` on. -/
def expandLoad : Nat → List Byte → List Instr
  | _, [] => []
  | k, b :: bs => .rxWrite (BitVec.ofNat 8 k) b :: expandLoad (k + 1) bs

/-- R87: the operations a pseudo-operation abbreviates. -/
def Pseudo.expand : Pseudo → List Instr
  | .rxLoad bytes => expandLoad 0 bytes
  | .rxFrame bytes now peer => expandLoad 0 bytes ++ [.poll (BitVec.ofNat 9 bytes.length) now peer]

/-! ## Words as the table numbers them -/

/-- The sample that presents the command whose word is `w`, its operand ports zero. The word is the 5 bits of `op`
alone (R81), so a number of more than 5 bits is no command. -/
def commandOfWord (w : Nat) : Option Ports :=
  if w < 32 then some { Ports.blank with op := BitVec.ofNat 5 w } else none

/-- The instruction the decoder reads from a command word of at most one byte. The wire rows `BUNDLE.*` are no command
words: 2, 3 and 5 are the op codes of `RX.BEGIN`, `RX.WRITE` and `RX.COMMIT` (assumption 12). -/
def decodeTableWord (nbits w : Nat) : Option Instr :=
  if nbits ≤ 8 then (commandOfWord w).map decodeCommand else none

end Sys2Proof
end

