-- ==== Sys2Proof/Machine/State.lean ====
section
/-! DEFINITION. The state of the engine (`10_state.md`), as plain data: three memories, the ten registers and flags of
R20, and beside them what the interface of a step needs: the configuration of the instance, the port samples still to
come, the result of the last operation and the record of emitted events. -/

namespace Sys2Proof.Machine

open Sys2Proof

/-- A byte memory (R10, R50): one entry for each address 0 to 255, addresses strictly rising. An address that is not
listed does not exist (R56) and reads as no value. Every byte of the three memories is state from reset on (R22, R23),
so every address is listed from reset on (assumption 5). -/
abbrev Memory := List Host.Cell

/-- The canonical form of a memory: its addresses are exactly 0 to 255, in rising order. Equal memories are then equal
lists. -/
abbrev Memory.wf (m : Memory) : Prop := m.map Prod.fst = List.range 256

/-- R200: the status codes that an operation can return (6 is reserved and never returned, U7). -/
inductive Status where
  | ok
  | notFound
  | rejected
  | dropped
  | noPeer
  | noData
  | illegal
deriving DecidableEq, Repr

/-- R11, R80: what an operation drives on `st`, `res_a` and `res_b`. -/
structure Result where
  st : Status
  resA : Half
  resB : Len
deriving DecidableEq, Repr

/-- R12: the output events. The length of a `tx_frame` is the length of its bytes. -/
inductive Event where
  | ctrlStrobe
  | txFrame (dest : Peer) (bytes : List Byte)
deriving DecidableEq, Repr

/-- Why the machine stops with a fault. -/
inductive Fault where
  /-- An access to an address that does not exist (R56). Raised by the accesses of `Machine/Ops.lean` through `access`,
  for an address that the memory does not list. Safe: the model stops where the spec gives no byte. No state that keeps
  the invariants of R35 raises it. -/
  | noSuchAddress
deriving DecidableEq, Repr

/-- Why there is no meaning. -/
inductive Refusal where
  /-- The instruction has no meaning in this model. Raised only by an arm of `exec`, of which none is left. Safe. -/
  | notModelled (mnemonic : String)
deriving DecidableEq, Repr

/-- Everything the spec gives the machine. -/
structure State where
  /-- R6, R222: the parameters of this instance; no step changes them (assumption 1) -/
  cfg : Config
  /-- R22 -/
  buf0 : Memory
  /-- R22 -/
  buf1 : Memory
  /-- R23 -/
  txbuf : Memory
  /-- R24: selects the active slot; the receive slot is `1 - activeSel` -/
  activeSel : BitVec 1
  /-- R25: `len` of the frame last committed -/
  activeSize : Len
  /-- R26: origin of the most recent accepted frame -/
  peer : Peer
  /-- R26 -/
  peerValid : Bool
  /-- R27: `now` at the last reset -/
  startTs : Time
  /-- R28: `now` of the `POLL` that last accepted a control frame -/
  lastCtrlTs : Time
  /-- R28 -/
  ctrlSeen : Bool
  /-- R29: register and output pin -/
  enabled : Bool
  /-- R30 -/
  txCursor : Len
  /-- R31 -/
  txPending : Bool
  /-- R80: the samples of the input ports still to come, next first (assumption 8) -/
  inputs : List Ports
  /-- R11, R80: results of the operation the last step performed, none if it performed none (assumption 10) -/
  result : Option Result
  /-- R12: the events emitted so far, oldest first (assumption 11) -/
  events : List Event
  /-- the model's own: how many resets there have been, the index of the free reset values (assumption 5) -/
  resets : Nat
deriving DecidableEq, Repr

/-- R220: a memory after reset number `n`: every address listed, every byte a free value. -/
def State.freshMemory (n : Nat) (k : Space) : Memory :=
  (List.range 256).map fun a => (a, Config.resetByte n k a)

/-- R220: the state when `rst` is released while the `now` input shows `t`, for an instance with configuration `cfg`
whose reset this is number `n`. `inputs` is what the host will present afterwards and `events` what has already left the
engine: "No output event is emitted by reset". -/
def State.afterReset (cfg : Config) (n : Nat) (t : Time) (inputs : List Ports) (events : List Event) : State where
  cfg := cfg
  buf0 := State.freshMemory n .buf0
  buf1 := State.freshMemory n .buf1
  txbuf := State.freshMemory n .txbuf
  activeSel := 0
  activeSize := 0
  peer := cfg.clipPeer (Config.resetPeer n)
  peerValid := false
  startTs := cfg.clipTime t
  lastCtrlTs := cfg.clipTime (Config.resetLastCtrl n)
  ctrlSeen := false
  enabled := false
  txCursor := BitVec.ofNat 9 Config.outHdr
  txPending := false
  inputs := inputs
  result := none
  events := events
  resets := n

/-- The machine right after its first reset (R220), released at `now = 0` (assumption 7: a reset at any other time is a
first sample with `rst = 1`), with nothing presented yet and nothing emitted. -/
def State.reset : State := State.afterReset Config.deployed 0 0 [] []

end Sys2Proof.Machine
end

