-- ==== Sys2Proof/Machine/Ops.lean ====
section
/-! DEFINITION. The named operations over memories and registers (R10), the results of an operation (R11), the events
(R12) and the commit (R142). The engine has no exceptions to take (R200, R205): the shared way out of an operation that
cannot proceed is `State.raise`, which returns a status and changes nothing else (R11, R201). -/

namespace Sys2Proof.Machine

open Sys2Proof

/-! ## Bytes of a memory (R10, R54, R55, R56) -/

/-- `MemRead(space, addr, 1)`. -/
def Memory.read : Memory → Nat → Option Byte
  | [], _ => none
  | (k, b) :: m, a => if k = a then some b else Memory.read m a

/-- `MemWrite(space, addr, 1, v)`: changes exactly the addressed byte. -/
def Memory.write : Memory → Nat → Byte → Option Memory
  | [], _, _ => none
  | (k, b) :: m, a, v => if k = a then some ((k, v) :: m) else (Memory.write m a v).map ((k, b) :: ·)

/-- `X[a .. a+n-1]`, read in ascending address order; empty for `n = 0` (R9). -/
def Memory.readBytes (m : Memory) : Nat → Nat → Option (List Byte)
  | _, 0 => some []
  | a, n + 1 => (Memory.read m a).bind fun b => (Memory.readBytes m (a + 1) n).map (b :: ·)

/-- Writes of successive bytes from address `a` up. -/
def Memory.writeBytes : Memory → Nat → List Byte → Option Memory
  | m, _, [] => some m
  | m, a, b :: bs => (Memory.write m a b).bind fun m' => Memory.writeBytes m' (a + 1) bs

/-! ## The spaces of a state -/

/-- `BUF<k>` for a one-bit slot index (R10, R22). -/
def slotSpace (k : BitVec 1) : Space := if k = 0 then .buf0 else .buf1

/-- The memory of a space. -/
def State.mem (s : State) : Space → Memory
  | .buf0 => s.buf0
  | .buf1 => s.buf1
  | .txbuf => s.txbuf

/-- Replaces the memory of a space. -/
def State.setMem (s : State) (k : Space) (m : Memory) : State :=
  match k with
  | .buf0 => { s with buf0 := m }
  | .buf1 => { s with buf1 := m }
  | .txbuf => { s with txbuf := m }

/-- R24: the space of the active slot. -/
def State.activeSpace (s : State) : Space := slotSpace s.activeSel

/-- R24: the space of the receive slot, `BUF<1 - active_sel>`. -/
def State.receiveSpace (s : State) : Space := slotSpace (1 - s.activeSel)

/-- `ACT`, the active slot (R10). -/
def State.act (s : State) : Memory := s.mem s.activeSpace

/-- `RXB`, the receive slot (R10). -/
def State.rxb (s : State) : Memory := s.mem s.receiveSpace

/-! ## Results, events, faults -/

/-- R11, R80: the operation ends and drives its results. -/
def State.answer (s : State) (st : Status) (resA : Half) (resB : Len) : State :=
  { s with result := some ⟨st, resA, resB⟩ }

/-- R11: `raise <STATUS>`: the operation ends with that status, with no state change and with results of zero. -/
def State.raise (s : State) (st : Status) : State := s.answer st 0 0

/-- R12: `emit`. -/
def State.emit (s : State) (e : Event) : State := { s with events := s.events ++ [e] }

/-- R56: an operation whose accesses all exist goes on; one that names an address that does not exist stops. -/
def access (o : Option State) : Host.Outcome State Fault Refusal :=
  match o with
  | some s => .next s
  | none => .fault .noSuchAddress

/-! ## The commit (R142, R143) -/

/-- R142: exchanges the two roles and records the size, in one step; no byte is copied. -/
def State.commit (s : State) (len : Len) : State :=
  { s with activeSel := 1 - s.activeSel, activeSize := len }

end Sys2Proof.Machine
end

