-- ==== Sys2Proof/Machine/Operands.lean ====
section
/-! DEFINITION. Operand and result forms: the widenings of R8, the buffer select of `CRC16` (R80, R103), the range of
`len` (R80, R85) and the big-endian split of a checksum (R53). -/

namespace Sys2Proof.Machine

open Sys2Proof

/-- R8: `zext_16` of a byte. -/
def zextByte (b : Byte) : Half := b.setWidth 16

/-- R8: `zext_16` of a 9-bit value. -/
def zextLen (l : Len) : Half := l.setWidth 16

/-- R8: `zext_9` of a slot index. -/
def zextSlot (k : BitVec 1) : Len := k.setWidth 9

/-- A one-bit flag as a result. -/
def flagHalf (b : Bool) : Half := if b then 1 else 0

/-- R80, R85: `len` values of 257 to 511 are out of range. -/
def lenOutOfRange (len : Len) : Bool := 256 < len.toNat

/-- R80, R103: the buffer that `sel` selects; 3 is reserved. -/
def selectSpace (s : State) (sel : BitVec 2) : Option Space :=
  match sel.toNat with
  | 0 => some s.receiveSpace
  | 1 => some s.activeSpace
  | 2 => some .txbuf
  | _ => none

/-- R190, R191: `zext_16({ctrl, enabled})`. -/
def pollResA (ctrl enabled : Bool) : Half :=
  (if ctrl then 2 else 0) + (if enabled then 1 else 0)

end Sys2Proof.Machine
end

