-- ==== Sys2Proof/Machine/Flags.lean ====
section
/-! DEFINITION. Computed conditions: the numbers of the status codes (R200), the two watchdog functions (R155, R156) and
the two header bytes derived from them (R76, R77). The engine has no arithmetic condition codes (R32); its four flags
are written by the operations of their rows. -/

namespace Sys2Proof.Machine

open Sys2Proof

/-- R200: the number that a status shows on the `st` port. -/
def Status.code : Status → BitVec 3
  | .ok => 0
  | .notFound => 1
  | .rejected => 2
  | .dropped => 3
  | .noPeer => 4
  | .noData => 5
  | .illegal => 7

/-- R7, R15: `(now - earlier) mod 2^TIME_W`, of two numbers of `TIME_W` bits. -/
def timeSince (cfg : Config) (now earlier : Time) : Nat :=
  (cfg.clipTime now + 2 ^ cfg.timeW - cfg.clipTime earlier) % 2 ^ cfg.timeW

/-- R155: `uptime(now) = (now - start_ts) mod 2^TIME_W`. -/
def State.uptime (s : State) (now : Time) : Nat := timeSince s.cfg now s.startTs

/-- R156: milliseconds since the last accepted control frame, modulo `2^TIME_W`. -/
def State.ctrlAge (s : State) (now : Time) : Nat := timeSince s.cfg now s.lastCtrlTs

/-- R156: the enable function. -/
def State.wdEnabled (s : State) (now : Time) : Bool :=
  decide (Config.wdStartupMs < s.uptime now) && s.ctrlSeen &&
    decide (s.ctrlAge now ≤ Config.wdTimeoutMs)

/-- R76: the `robotState` byte. -/
def robotState (enabled : Bool) : Byte := if enabled then 0xFF else 0x00

/-- R77: `min(255, uptime(now) div 60000)`. -/
def State.uptimeMinutes (s : State) (now : Time) : Byte :=
  BitVec.ofNat 8 (min 255 (s.uptime now / 60000))

end Sys2Proof.Machine
end

