-- ==== Sys2Proof/Machine/Crc.lean ====
section
/-! DEFINITION. The CRC Engine (`40_crc.md`). -/

namespace Sys2Proof.Machine

open Sys2Proof

/-- R101: `c_(k+1) = (c_k >> 8) xor CRC_TABLE[(c_k xor zext_16(S[k])) and 0x00FF]`. -/
def crcStep (table : Vector Half 256) (c : Half) (b : Byte) : Half :=
  (c >>> 8) ^^^ table.get ((c ^^^ b.setWidth 16).extractLsb' 0 8).toFin

/-- R101: the checksum of a byte sequence, initial value 0, no final step. -/
def crc16 (table : Vector Half 256) (bytes : List Byte) : Half := bytes.foldl (crcStep table) 0

/-- R102: one step of the bitwise construction of the default table. -/
def crcTableStep (t : Half) : Half :=
  if t.getLsbD 0 then (t >>> 1) ^^^ 0xA001 else t >>> 1

/-- R102: `t_8`, the entry of index `i` of the table of polynomial `0xA001`. -/
def crcTableEntry (i : Byte) : Half := Nat.iterate crcTableStep 8 (i.setWidth 16)

/-- R103: `CRC16`. -/
def execCrc16 (sel : BitVec 2) (len : Len) (s : State) : Host.Outcome State Fault Refusal :=
  if lenOutOfRange len then .next (s.raise .illegal)
  else
    match selectSpace s sel with
    | none => .next (s.raise .illegal)
    | some k =>
      access (((s.mem k).readBytes 0 len.toNat).map fun bytes => s.answer .ok (crc16 s.cfg.crcTable bytes) 0)

end Sys2Proof.Machine
end

