-- ==== Sys2Proof/Machine/Codec.lean ====
section
/-! DEFINITION. The Frame Codec (`41_frame_codec.md`): the parser's acceptance test, the serializer, `RX.DECODE`. -/

namespace Sys2Proof.Machine

open Sys2Proof

/-- R111: whether the first `len` bytes of a memory are an acceptable frame: length in range, trailer equal to the
checksum of the bytes before it, version byte as configured. Nothing is read when the length is out of range. A frame
shorter than its trailer has no address for it (R56); a legal `MIN_FRAME_LEN` keeps it out. -/
def frameOk (cfg : Config) (m : Memory) (len : Len) : Option Bool :=
  if len.toNat < cfg.minFrameLen.toNat || lenOutOfRange len then some false
  else if len.toNat < Config.crcLen then none
  else
    (m.readBytes 0 (len.toNat - Config.crcLen)).bind fun covered =>
    (m.read (len.toNat - 2)).bind fun hi =>
    (m.read (len.toNat - 1)).bind fun lo =>
    (m.read 1).map fun version =>
      decide (crc16 cfg.crcTable covered = beHalf hi lo) && decide (version = cfg.protocolVersion)

/-- R111: `decode_ok(len)`, on the receive slot. -/
def decodeOk (len : Len) (s : State) : Option Bool := frameOk s.cfg s.rxb len

/-- R112: `RX.DECODE`. -/
def execRxDecode (len : Len) (s : State) : Host.Outcome State Fault Refusal :=
  access ((decodeOk len s).map fun ok => if ok then s.answer .ok 0 0 else s.raise .rejected)

/-- R71, R116: the six header bytes of a feedback frame encoded at `now`. -/
def feedbackHeader (now : Time) (s : State) : List Byte :=
  [s.cfg.msgFeedback, s.cfg.protocolVersion, s.cfg.deviceId, s.cfg.firmwareVersion,
    robotState (s.wdEnabled now), s.uptimeMinutes now]

/-- R116: `encode(now)`: header, then the CRC over everything up to the cursor, appended big-endian at the cursor. -/
def encodeFrame (now : Time) (s : State) : Option State :=
  (s.txbuf.writeBytes 0 (feedbackHeader now s)).bind fun m =>
  (m.readBytes 0 s.txCursor.toNat).bind fun covered =>
  (m.writeBytes s.txCursor.toNat (be16 (crc16 s.cfg.crcTable covered))).map fun m' =>
    { s with txbuf := m' }

end Sys2Proof.Machine
end

