-- ==== Sys2Proof/Machine/Bundles.lean ====
section
/-! DEFINITION. The Bundle Index (`42_bundle_index.md`): the scan and the three lookups built on it. -/

namespace Sys2Proof.Machine

open Sys2Proof

/-- R126: `Found(p, n)` or `NotFound`. -/
inductive Located where
  | notFound
  | found (p n : Nat)
deriving DecidableEq, Repr

/-- R126: the scan loop from cursor `cur`. `fuel` bounds the turns; with `fuel ≥ size - cur` it never runs out
(assumption 15). -/
def locateFrom (m : Memory) (size : Nat) (id : Byte) : Nat → Nat → Option Located
  | 0, _ => some .notFound
  | fuel + 1, cur =>
    if cur + Config.crcLen < size then
      (m.read cur).bind fun len =>
      (m.read (cur + 1)).bind fun bundleId =>
        if bundleId = id then
          some (if len.toNat = 0 then .notFound else .found cur (len.toNat - 1))
        else locateFrom m size id fuel (cur + 1 + len.toNat)
    else some .notFound

/-- R126: `locate(id)` on the active frame, from offset 3. -/
def locate (id : Byte) (s : State) : Option Located :=
  locateFrom s.act s.activeSize.toNat id s.activeSize.toNat Config.inHdr

/-- R127: `BND.LOCATE`. -/
def execBndLocate (id : Byte) (s : State) : Host.Outcome State Fault Refusal :=
  access ((locate id s).map fun l =>
    match l with
    | .notFound => s.raise .notFound
    | .found p n => s.answer .ok (BitVec.ofNat 16 n) (BitVec.ofNat 9 p))

/-- R128, R131: `BND.COMP`. An address above 255 is never accessed. -/
def execBndComp (id idx : Byte) (s : State) : Host.Outcome State Fault Refusal :=
  access ((locate id s).bind fun l =>
    match l with
    | .notFound => some (s.raise .notFound)
    | .found p n =>
      if n ≤ idx.toNat then some (s.raise .notFound)
      else if 255 < p + 2 + idx.toNat then some (s.raise .notFound)
      else (s.act.read (p + 2 + idx.toNat)).map fun b => s.answer .ok (zextByte b) 0)

/-- R130: `BND.SIZE`. -/
def execBndSize (id : Byte) (s : State) : Host.Outcome State Fault Refusal :=
  access ((locate id s).map fun l =>
    match l with
    | .notFound => s.raise .notFound
    | .found _ n => s.answer .ok (BitVec.ofNat 16 n) 0)

end Sys2Proof.Machine
end

