-- ==== Sys2Proof/Machine/Exchange.lean ====
section
/-! DEFINITION. The Packet Exchange Buffer (`43_exchange.md`). -/

namespace Sys2Proof.Machine

open Sys2Proof

/-- R140: `RX.BEGIN`. -/
def execRxBegin (s : State) : Host.Outcome State Fault Refusal :=
  .next (s.answer .ok 0 (zextSlot (1 - s.activeSel)))

/-- R141: `RX.WRITE`: always the receive slot. -/
def execRxWrite (off wdata : Byte) (s : State) : Host.Outcome State Fault Refusal :=
  access ((s.rxb.write off.toNat wdata).map fun m => (s.setMem s.receiveSpace m).answer .ok 0 0)

/-- R142: `RX.COMMIT`; it does not validate (R226). -/
def execRxCommit (len : Len) (s : State) : Host.Outcome State Fault Refusal :=
  if lenOutOfRange len then .next (s.raise .illegal)
  else .next ((s.commit len).answer .ok 0 (zextSlot (s.commit len).activeSel))

/-- R144: `ACT.INFO`. -/
def execActInfo (s : State) : Host.Outcome State Fault Refusal :=
  .next (s.answer .ok (zextLen s.activeSize) (zextSlot s.activeSel))

/-- R145: `ACT.READ`; the offset is not compared with `active_size`. -/
def execActRead (off : Byte) (s : State) : Host.Outcome State Fault Refusal :=
  access ((s.act.read off.toNat).map fun b => s.answer .ok (zextByte b) 0)

end Sys2Proof.Machine
end

