-- ==== Sys2Proof/Machine/Assembler.lean ====
section
/-! DEFINITION. The Outbound Telemetry Assembler (`45_assembler.md`): the guarded append, the request, the inspections,
the flush; and the meanings of the wire bundle rows (R74, assumption 12). -/

namespace Sys2Proof.Machine

open Sys2Proof

/-- R165, R166: the append of one bundle below its kind's high-water mark, all or nothing. A dropped append still
answers the unchanged cursor (R167). -/
def appendBundle (hwm : Nat) (bytes : List Byte) (s : State) : Host.Outcome State Fault Refusal :=
  if s.txPending || hwm ≤ s.txCursor.toNat then .next (s.answer .dropped 0 s.txCursor)
  else
    access ((s.txbuf.writeBytes s.txCursor.toNat bytes).map fun m =>
      let cursor := s.txCursor + BitVec.ofNat 9 bytes.length
      { s with txbuf := m, txCursor := cursor }.answer .ok 0 cursor)

/-- R167: `TX.APPEND8`. -/
def execTxAppend8 (id value : Byte) (s : State) : Host.Outcome State Fault Refusal :=
  appendBundle s.cfg.hwmU8.toNat (bundleBytesU8 id value) s

/-- R168: `TX.APPEND16`. -/
def execTxAppend16 (id : Byte) (value : Half) (s : State) : Host.Outcome State Fault Refusal :=
  appendBundle Config.hwmU16 (bundleBytesU16 id value) s

/-- R169: `TX.APPEND32`. -/
def execTxAppend32 (id : Byte) (value : Word) (s : State) : Host.Outcome State Fault Refusal :=
  appendBundle s.cfg.hwmI32.toNat (bundleBytesI32 id value) s

/-- R74, R166, R167: the byte bundle, taking its place at the cursor (assumption 12). -/
def execBundleU8 (id value : Byte) (s : State) : Host.Outcome State Fault Refusal :=
  appendBundle s.cfg.hwmU8.toNat (bundleBytesU8 id value) s

/-- R74, R166, R168: the 16-bit bundle, taking its place at the cursor (assumption 12). -/
def execBundleU16 (id : Byte) (value : Half) (s : State) : Host.Outcome State Fault Refusal :=
  appendBundle Config.hwmU16 (bundleBytesU16 id value) s

/-- R74, R166, R169: the 32-bit bundle, taking its place at the cursor (assumption 12). -/
def execBundleI32 (id : Byte) (value : Word) (s : State) : Host.Outcome State Fault Refusal :=
  appendBundle s.cfg.hwmI32.toNat (bundleBytesI32 id value) s

/-- R170: `TX.REQUEST`. -/
def execTxRequest (s : State) : Host.Outcome State Fault Refusal :=
  .next ({ s with txPending := true }.answer .ok 0 0)

/-- R171: `TX.INFO`. -/
def execTxInfo (s : State) : Host.Outcome State Fault Refusal :=
  .next (s.answer .ok (flagHalf s.txPending) s.txCursor)

/-- R172: `TX.READ`; the offset is not compared with `tx_cursor`. -/
def execTxRead (off : Byte) (s : State) : Host.Outcome State Fault Refusal :=
  access ((s.txbuf.read off.toNat).map fun b => s.answer .ok (zextByte b) 0)

/-- R176: `NoPeer` or `Sent(n)`. -/
inductive Flushed where
  | noPeer
  | sent (n : Len)
deriving DecidableEq, Repr

/-- R176: `flush(now)`. It does not test `tx_pending`; with no peer the whole flush does nothing. -/
def flush (now : Time) (s : State) : Option (Flushed × State) :=
  if s.peerValid then
    (encodeFrame now s).bind fun s1 =>
    (s1.txbuf.readBytes 0 (s.txCursor.toNat + Config.crcLen)).map fun bytes =>
      (.sent (s.txCursor + BitVec.ofNat 9 Config.crcLen),
        { s1.emit (.txFrame s.peer bytes) with
          txCursor := BitVec.ofNat 9 Config.outHdr, txPending := false })
  else some (.noPeer, s)

/-- R175: `TX.FLUSH`. -/
def execTxFlush (now : Time) (s : State) : Host.Outcome State Fault Refusal :=
  access ((flush now s).map fun r =>
    match r.1 with
    | .noPeer => r.2.raise .noPeer
    | .sent n => r.2.answer .ok 0 n)

end Sys2Proof.Machine
end

