-- ==== Sys2Proof/Machine/Poll.lean ====
section
/-! DEFINITION. The poll cycle (`46_poll.md` R190 to R194). -/

namespace Sys2Proof.Machine

open Sys2Proof

/-- R191 steps 3 and 4: the commit, and the origin of the frame remembered, as its port carries it. -/
def acceptFrame (len : Len) (peerIn : Peer) (s : State) : State :=
  { s.commit len with peer := s.cfg.clipPeer peerIn, peerValid := true }

/-- R191 step 5, for a control frame: the strobe and the refresh of the watchdog. -/
def acceptControl (now : Time) (s : State) : State :=
  { s.emit .ctrlStrobe with lastCtrlTs := s.cfg.clipTime now, ctrlSeen := true }

/-- R191 step 7 and the results: `enabled` takes `wd_enabled(now)` whatever the status (R194). -/
def endPoll (st : Status) (ctrl : Bool) (sent : Len) (now : Time) (s : State) : State :=
  { s with enabled := s.wdEnabled now }.answer st (pollResA ctrl (s.wdEnabled now)) sent

/-- The length that a flush reports as sent. `flush` cannot answer `NoPeer` inside `POLL` (R191). -/
def Flushed.length : Flushed → Len
  | .noPeer => 0
  | .sent n => n

/-- R191 steps 3 to 7, for a frame that passed `decode_ok`. -/
def pollAccept (len : Len) (now : Time) (peerIn : Peer) (s : State) : Option State :=
  let s1 := acceptFrame len peerIn s
  (s1.act.read 0).bind fun messageType =>
    let ctrl := decide (messageType = s.cfg.msgControl)
    let s2 := if ctrl then acceptControl now s1 else s1
    (flush now s2).map fun r => endPoll .ok ctrl r.1.length now r.2

/-- R190, R191: `POLL`. -/
def execPoll (len : Len) (now : Time) (peerIn : Peer) (s : State) : Host.Outcome State Fault Refusal :=
  if len = 0 then .next (endPoll .noData false 0 now s)
  else
    access ((decodeOk len s).bind fun ok =>
      if ok then pollAccept len now peerIn s else some (endPoll .rejected false 0 now s))

end Sys2Proof.Machine
end

