-- ==== Sys2Proof/Machine/Reserved.lean ====
section
/-! DEFINITION. The reserved op codes (R84): each answers `ILLEGAL`, changes no state and emits no event. One definition
per row, all the same `raise`. -/

namespace Sys2Proof.Machine

/-- R84: op code 0x00. -/
def execReserved00 (s : State) : Host.Outcome State Fault Refusal := .next (s.raise .illegal)

/-- R84: op code 0x14. -/
def execReserved14 (s : State) : Host.Outcome State Fault Refusal := .next (s.raise .illegal)

/-- R84: op code 0x15. -/
def execReserved15 (s : State) : Host.Outcome State Fault Refusal := .next (s.raise .illegal)

/-- R84: op code 0x16. -/
def execReserved16 (s : State) : Host.Outcome State Fault Refusal := .next (s.raise .illegal)

/-- R84: op code 0x17. -/
def execReserved17 (s : State) : Host.Outcome State Fault Refusal := .next (s.raise .illegal)

/-- R84: op code 0x18. -/
def execReserved18 (s : State) : Host.Outcome State Fault Refusal := .next (s.raise .illegal)

/-- R84: op code 0x19. -/
def execReserved19 (s : State) : Host.Outcome State Fault Refusal := .next (s.raise .illegal)

/-- R84: op code 0x1A. -/
def execReserved1A (s : State) : Host.Outcome State Fault Refusal := .next (s.raise .illegal)

/-- R84: op code 0x1B. -/
def execReserved1B (s : State) : Host.Outcome State Fault Refusal := .next (s.raise .illegal)

/-- R84: op code 0x1C. -/
def execReserved1C (s : State) : Host.Outcome State Fault Refusal := .next (s.raise .illegal)

/-- R84: op code 0x1D. -/
def execReserved1D (s : State) : Host.Outcome State Fault Refusal := .next (s.raise .illegal)

/-- R84: op code 0x1E. -/
def execReserved1E (s : State) : Host.Outcome State Fault Refusal := .next (s.raise .illegal)

/-- R84: op code 0x1F. -/
def execReserved1F (s : State) : Host.Outcome State Fault Refusal := .next (s.raise .illegal)

end Sys2Proof.Machine
end

