-- ==== Sys2Proof/Machine/Watchdog.lean ====
section
/-! DEFINITION. The Enable Watchdog's operation (`44_watchdog.md`); its functions are in `Machine/Flags.lean`. -/

namespace Sys2Proof.Machine

open Sys2Proof

/-- R157: `WD.EVAL`; the `enabled` register is not written. -/
def execWdEval (now : Time) (s : State) : Host.Outcome State Fault Refusal :=
  .next (s.answer .ok (flagHalf (s.wdEnabled now)) 0)

end Sys2Proof.Machine
end

