-- ==== Sys2Proof/Machine/Dispatch.lean ====
section
/-! DEFINITION. One arm per constructor of `Instr`, each one direct call of its meaning. -/

namespace Sys2Proof.Machine

open Sys2Proof

/-- The operation's effect: the next state with its results and events, or the reason there is none. -/
def exec (i : Instr) (s : State) : Host.Outcome State Fault Refusal :=
  match i with
  | .crc16 sel len => Sys2Proof.Machine.execCrc16 sel len s
  | .rxBegin => Sys2Proof.Machine.execRxBegin s
  | .rxWrite off wdata => Sys2Proof.Machine.execRxWrite off wdata s
  | .rxDecode len => Sys2Proof.Machine.execRxDecode len s
  | .rxCommit len => Sys2Proof.Machine.execRxCommit len s
  | .actInfo => Sys2Proof.Machine.execActInfo s
  | .actRead off => Sys2Proof.Machine.execActRead off s
  | .bndLocate id => Sys2Proof.Machine.execBndLocate id s
  | .bndComp id idx => Sys2Proof.Machine.execBndComp id idx s
  | .bndSize id => Sys2Proof.Machine.execBndSize id s
  | .wdEval now => Sys2Proof.Machine.execWdEval now s
  | .txAppend8 id value => Sys2Proof.Machine.execTxAppend8 id value s
  | .txAppend16 id value => Sys2Proof.Machine.execTxAppend16 id value s
  | .txAppend32 id value => Sys2Proof.Machine.execTxAppend32 id value s
  | .txRequest => Sys2Proof.Machine.execTxRequest s
  | .txFlush now => Sys2Proof.Machine.execTxFlush now s
  | .txInfo => Sys2Proof.Machine.execTxInfo s
  | .txRead off => Sys2Proof.Machine.execTxRead off s
  | .poll len now peerIn => Sys2Proof.Machine.execPoll len now peerIn s
  | .reserved00 => Sys2Proof.Machine.execReserved00 s
  | .reserved14 => Sys2Proof.Machine.execReserved14 s
  | .reserved15 => Sys2Proof.Machine.execReserved15 s
  | .reserved16 => Sys2Proof.Machine.execReserved16 s
  | .reserved17 => Sys2Proof.Machine.execReserved17 s
  | .reserved18 => Sys2Proof.Machine.execReserved18 s
  | .reserved19 => Sys2Proof.Machine.execReserved19 s
  | .reserved1A => Sys2Proof.Machine.execReserved1A s
  | .reserved1B => Sys2Proof.Machine.execReserved1B s
  | .reserved1C => Sys2Proof.Machine.execReserved1C s
  | .reserved1D => Sys2Proof.Machine.execReserved1D s
  | .reserved1E => Sys2Proof.Machine.execReserved1E s
  | .reserved1F => Sys2Proof.Machine.execReserved1F s
  | .bundleU8 id value => Sys2Proof.Machine.execBundleU8 id value s
  | .bundleU16 id value => Sys2Proof.Machine.execBundleU16 id value s
  | .bundleI32 id value => Sys2Proof.Machine.execBundleI32 id value s

end Sys2Proof.Machine
end

