-- ==== Sys2Proof/Machine/Port.lean ====
section
/-! DEFINITION. The command port (R80): what one sample of it makes the engine do, and sequences of operations (R13). -/

namespace Sys2Proof.Machine

open Sys2Proof

/-- R210: "Between operations the engine holds its state and does nothing". No operation, so no result. -/
def State.idle (s : State) : State := { s with result := none }

/-- R220: the reset of a running instance by a sample whose `now` input is `t`. -/
def State.resetNow (t : Time) (s : State) : State :=
  State.afterReset s.cfg (s.resets + 1) t s.inputs s.events

/-- The engine takes one sample. A sample with `rst` resets (R220) and wins over `cmd_valid` (assumption 9); a sample
with `cmd_valid` performs the operation it selects; any other sample is idle. -/
def stepPorts (p : Ports) (s : State) : Host.Outcome State Fault Refusal :=
  if p.rst then .next (s.resetNow p.now)
  else if p.cmdValid then exec (decodeCommand p) s
  else .next s.idle

/-- A sequence of operations presented one after the other (R13, R16), for the pseudo-operations of R87 and for
statements about sequences. -/
def execAll : List Instr → State → Host.Outcome State Fault Refusal
  | [], s => .next s
  | i :: is, s =>
    match exec i s with
    | .next s' => execAll is s'
    | .fault r => .fault r
    | .refused r => .refused r

end Sys2Proof.Machine
end

