-- ==== Sys2Proof/Machine/Step.lean ====
section
/-! DEFINITION. One step: the engine takes the next sample of its input ports (R80). With no sample left nothing drives
the command port and the engine holds its state (R210). -/

namespace Sys2Proof.Machine

open Sys2Proof

/-- One step of the machine. -/
def step (s : State) : Host.Outcome State Fault Refusal :=
  match s.inputs with
  | [] => .next s.idle
  | p :: rest => stepPorts p { s with inputs := rest }

/-- `s` with the command of word `w` presented at the next sample, before whatever was to come. A number that is no
command word changes nothing. -/
def State.withFetchWord (s : State) (nbits w : Nat) : State :=
  match (if nbits ≤ 8 then commandOfWord w else none) with
  | some p => { s with inputs := p :: s.inputs }
  | none => s

end Sys2Proof.Machine
end

