-- ==== Sys2Proof/Machine/Text.lean ====
section
/-! DEFINITION. The textual syntax of R86 for operations and for their results, values in decimal. -/

namespace Sys2Proof.Machine

open Sys2Proof

/-- R86: `name=value`. -/
def operandText (name : String) (v : Nat) : String := name ++ "=" ++ toString v

/-- R86: `MNEMONIC operand=value, operand=value`. -/
def lineText (mnemonic : String) (operands : List String) : String :=
  match operands with
  | [] => mnemonic
  | _ => mnemonic ++ " " ++ String.intercalate ", " operands

/-- R86, R82: the line of an operation. -/
def instrText : Instr → String
  | .crc16 sel len => lineText "CRC16" [operandText "sel" sel.toNat, operandText "len" len.toNat]
  | .rxBegin => lineText "RX.BEGIN" []
  | .rxWrite off wdata => lineText "RX.WRITE" [operandText "off" off.toNat, operandText "wdata" wdata.toNat]
  | .rxDecode len => lineText "RX.DECODE" [operandText "len" len.toNat]
  | .rxCommit len => lineText "RX.COMMIT" [operandText "len" len.toNat]
  | .actInfo => lineText "ACT.INFO" []
  | .actRead off => lineText "ACT.READ" [operandText "off" off.toNat]
  | .bndLocate id => lineText "BND.LOCATE" [operandText "id" id.toNat]
  | .bndComp id idx => lineText "BND.COMP" [operandText "id" id.toNat, operandText "idx" idx.toNat]
  | .bndSize id => lineText "BND.SIZE" [operandText "id" id.toNat]
  | .wdEval now => lineText "WD.EVAL" [operandText "now" now]
  | .txAppend8 id v => lineText "TX.APPEND8" [operandText "id" id.toNat, operandText "val" v.toNat]
  | .txAppend16 id v => lineText "TX.APPEND16" [operandText "id" id.toNat, operandText "val" v.toNat]
  | .txAppend32 id v => lineText "TX.APPEND32" [operandText "id" id.toNat, operandText "val" v.toNat]
  | .txRequest => lineText "TX.REQUEST" []
  | .txFlush now => lineText "TX.FLUSH" [operandText "now" now]
  | .txInfo => lineText "TX.INFO" []
  | .txRead off => lineText "TX.READ" [operandText "off" off.toNat]
  | .poll len now peer =>
    lineText "POLL" [operandText "len" len.toNat, operandText "now" now, operandText "peer_in" peer]
  | .reserved00 => lineText "RESERVED.00" []
  | .reserved14 => lineText "RESERVED.14" []
  | .reserved15 => lineText "RESERVED.15" []
  | .reserved16 => lineText "RESERVED.16" []
  | .reserved17 => lineText "RESERVED.17" []
  | .reserved18 => lineText "RESERVED.18" []
  | .reserved19 => lineText "RESERVED.19" []
  | .reserved1A => lineText "RESERVED.1A" []
  | .reserved1B => lineText "RESERVED.1B" []
  | .reserved1C => lineText "RESERVED.1C" []
  | .reserved1D => lineText "RESERVED.1D" []
  | .reserved1E => lineText "RESERVED.1E" []
  | .reserved1F => lineText "RESERVED.1F" []
  | .bundleU8 id v => lineText "BUNDLE.U8" [operandText "id" id.toNat, operandText "val" v.toNat]
  | .bundleU16 id v => lineText "BUNDLE.U16" [operandText "id" id.toNat, operandText "val" v.toNat]
  | .bundleI32 id v => lineText "BUNDLE.I32" [operandText "id" id.toNat, operandText "val" v.toNat]

/-- R200: the name of a status. -/
def statusText : Status → String
  | .ok => "OK"
  | .notFound => "NOT_FOUND"
  | .rejected => "REJECTED"
  | .dropped => "DROPPED"
  | .noPeer => "NO_PEER"
  | .noData => "NO_DATA"
  | .illegal => "ILLEGAL"

/-- R86: `-> st=..., res_a=..., res_b=...`. -/
def resultText (r : Result) : String :=
  "-> st=" ++ statusText r.st ++ ", " ++ operandText "res_a" r.resA.toNat ++ ", " ++ operandText "res_b" r.resB.toNat

end Sys2Proof.Machine
end

