-- ==== Sys2Proof/Safety.lean ====
section
/-! DEFINITION. What a safe run is: the invariants of R35, the frame and bundle invariants of R35 (f) and R180, and a run
that never stops. -/

namespace Sys2Proof.Machine

open Sys2Proof

/-- R35 (a) to (c) and (e), with the shape of the memories (R22, R23, R50) and the widths of
R26 to R28: what holds after reset and after every
operation. (c) needs no clause: the receive slot is `1 - active_sel` by construction. -/
structure State.Sound (s : State) : Prop where
  /-- R6: the configuration is one for which the rules are defined -/
  cfg : s.cfg.legal
  buf0 : s.buf0.wf
  buf1 : s.buf1.wf
  txbuf : s.txbuf.wf
  /-- R35 (b) -/
  size : s.activeSize.toNat ≤ 256
  /-- R35 (a) -/
  cursorLow : 6 ≤ s.txCursor.toNat
  /-- R35 (a) -/
  cursorHigh : s.txCursor.toNat ≤ 254
  /-- R35 (e) -/
  peer : s.ctrlSeen = true → s.peerValid = true
  /-- R26 to R28: the registers of a parameter's width hold numbers of that width -/
  peerWidth : s.peer < 2 ^ s.cfg.peerW
  startWidth : s.startTs < 2 ^ s.cfg.timeW
  lastWidth : s.lastCtrlTs < 2 ^ s.cfg.timeW

/-- R35 (f): the active frame is empty or satisfies `decode_ok`. -/
def State.ActiveFrameValid (s : State) : Prop :=
  s.activeSize = 0 ∨ frameOk s.cfg s.act s.activeSize = some true

/-- R180: the bytes from offset 6 to `tx_cursor - 1` are whole bundles of the forms of R74, one after the other. -/
def State.WholeBundles (s : State) : Prop :=
  ∃ bundles : List Instr, ∃ pieces : List (List Byte),
    bundles.map encode = pieces.map Encoded.wire ∧
    s.txbuf.readBytes Config.outHdr (s.txCursor.toNat - Config.outHdr) = some pieces.flatten

/-- A run of `k` steps that never stops (R200: "there is no panic/abort path in this core"). -/
def SafeRun (k : Nat) (s : State) : Prop := ∃ s', Host.Core.run core k s = .next s'

end Sys2Proof.Machine
end

