-- ==== Sys2Proof/Certificates/Slice0/Obligations.lean ====
section
/-! DEFINITION. The statements for the provers, from the numbered rules of `spec/`. Most of them give the WHOLE next
state, so that the result, the frame and the completion of an operation are said at once: what the record update does
not name is unchanged, every byte of every memory among it. -/

namespace Sys2Proof.Claims

open Sys2Proof Sys2Proof.Machine

/-! ## Words the statements use, written from the rules and not from the model's own functions -/

/-- `s` with nothing changed but the result ports. -/
def answered (s : State) (st : Status) (resA : Half) (resB : Len) : State :=
  { s with result := some ⟨st, resA, resB⟩ }

/-- R155: `(now - earlier) mod 2^TIME_W`, the remainder of the difference of two integers. -/
def msSince (timeW : Nat) (now earlier : Time) : Nat := (((now : Int) - (earlier : Int)) % (2 : Int) ^ timeW).toNat

/-- R156, with `TIME_W`, `start_ts`, `last_ctrl_ts` and `ctrl_seen` given. -/
def enabledAt (timeW : Nat) (start last : Time) (seen : Bool) (now : Time) : Bool :=
  decide (500 < msSince timeW now start) && seen && decide (msSince timeW now last ≤ 250)

/-- R53: a 16-bit number as two bytes, most significant first. -/
def twoBytes (v : Nat) : List Byte := [BitVec.ofNat 8 (v / 256), BitVec.ofNat 8 v]

/-- R71, R116: the bytes of a feedback frame that the CRC covers: the header, with the enable value and the uptime of
`now`, then the bundles. -/
def coveredBytes (cfg : Config) (start last : Time) (seen : Bool) (now : Time) (bundles : List Byte) : List Byte :=
  [cfg.msgFeedback, cfg.protocolVersion, cfg.deviceId, cfg.firmwareVersion,
    if enabledAt cfg.timeW start last seen now then 0xFF else 0x00,
    BitVec.ofNat 8 (min 255 (msSince cfg.timeW now start / 60000))] ++ bundles

/-- R71, R116: the whole frame, the checksum of the covered bytes appended big-endian. -/
def feedbackFrame (cfg : Config) (start last : Time) (seen : Bool) (now : Time) (bundles : List Byte) : List Byte :=
  coveredBytes cfg start last seen now bundles ++
    twoBytes (crc16 cfg.crcTable (coveredBytes cfg start last seen now bundles)).toNat

/-- R111, conditions (0), (a) and (b), over the bytes of a frame: the trailer as the number `256 * hi + lo`. -/
def acceptable (cfg : Config) (bytes : List Byte) : Bool :=
  decide (cfg.minFrameLen.toNat ≤ bytes.length) && decide (bytes.length ≤ 256) &&
  decide ((crc16 cfg.crcTable (bytes.take (bytes.length - 2))).toNat =
    256 * (bytes.getD (bytes.length - 2) 0).toNat + (bytes.getD (bytes.length - 1) 0).toNat) &&
  decide (bytes.getD 1 0 = cfg.protocolVersion)

/-- R74: the bytes of the six rows that append, in order. -/
def bundleImage : Instr → Option (List Byte)
  | .txAppend8 id v => some [0x02, id, v]
  | .bundleU8 id v => some [0x02, id, v]
  | .txAppend16 id v => some ([0x03, id] ++ twoBytes v.toNat)
  | .bundleU16 id v => some ([0x03, id] ++ twoBytes v.toNat)
  | .txAppend32 id v => some ([0x05, id] ++ twoBytes (v.toNat / 65536) ++ twoBytes v.toNat)
  | .bundleI32 id v => some ([0x05, id] ++ twoBytes (v.toNat / 65536) ++ twoBytes v.toNat)
  | _ => none

/-- R165: the high-water mark of the six rows that append. -/
def markOf (cfg : Config) : Instr → Option Nat
  | .txAppend8 _ _ => some cfg.hwmU8.toNat
  | .bundleU8 _ _ => some cfg.hwmU8.toNat
  | .txAppend16 _ _ => some 251
  | .bundleU16 _ _ => some 251
  | .txAppend32 _ _ => some cfg.hwmI32.toNat
  | .bundleI32 _ _ => some cfg.hwmI32.toNat
  | _ => none

/-- R192, R194: `s` after a `POLL` that accepted nothing, with `enabled` as `e`. -/
def polledOnly (s : State) (st : Status) (e : Bool) : State :=
  { s with enabled := e, result := some ⟨st, if e then 1 else 0, 0⟩ }

/-- Where an operation found a bundle (R127), as the answer of `BND.LOCATE`. -/
def locateAnswer : Located → Result
  | .notFound => ⟨.notFound, 0, 0⟩
  | .found p n => ⟨.ok, BitVec.ofNat 16 n, BitVec.ofNat 9 p⟩

/-- The status an operation returned. -/
def statusOf (t : State) : Option Status := t.result.map (·.st)

/-- The scan from a cursor, with the fuel that its distance from the frame's end asks for. -/
def scanFrom (m : Memory) (size : Nat) (id : Byte) (cur : Nat) : Option Located :=
  locateFrom m size id (size - cur) cur

/-- R51: the rows that read the active slot and nothing else of the memories. -/
def consumerRow : Instr → Bool
  | .actInfo => true
  | .actRead _ => true
  | .bndLocate _ => true
  | .bndComp _ _ => true
  | .bndSize _ => true
  | _ => false

end Sys2Proof.Claims

open Sys2Proof Sys2Proof.Machine Sys2Proof.Claims

/-! ## Encodings -/

/-- Decoding the encoding of any row, with any operands, gives it back (R81 to R83 for the commands, R74 for the wire
bundles). -/
def Obligations.DecodeEncodeAgree : Prop := ∀ i : Instr, decode (encode i) = .ok i

/-- R80: "An operation ignores every operand port its row in rule R82 does not list"; R83's unused bits of `val` among
them. Every sample decodes, and encoding what it decodes to gives the listed ports back. -/
def Obligations.CommandsIgnoreUnlistedPorts : Prop :=
  ∀ p : Ports, ∃ i, decode (.command p) = .ok i ∧ decode (.command p.onlyListed) = .ok i ∧
    encode i = .command p.onlyListed

/-- R74: bytes are one outbound bundle exactly if they are the encoding of it; every other tag, a bundle cut short and
bytes left over are refused. -/
def Obligations.WireBytesDecodeOnlyToTheirBundle : Prop :=
  ∀ (bytes : List Byte) (i : Instr), decode (.wire bytes) = .ok i ↔ encode i = .wire bytes

/-- Words written out from the binary column of R81 and the byte column of R74. -/
def Obligations.WrittenOutWordsDecode : Prop :=
  (∀ p : Ports, p.op = 0b00001#5 → decodeCommand p = .crc16 p.sel p.len) ∧
  (∀ p : Ports, p.op = 0b00011#5 → decodeCommand p = .rxWrite p.off p.wdata) ∧
  (∀ p : Ports, p.op = 0b00100#5 → decodeCommand p = .rxDecode p.len) ∧
  (∀ p : Ports, p.op = 0b01001#5 → decodeCommand p = .bndComp p.id p.idx) ∧
  (∀ p : Ports, p.op = 0b01011#5 → decodeCommand p = .wdEval p.now) ∧
  (∀ p : Ports, p.op = 0b01110#5 → decodeCommand p = .txAppend32 p.id p.val) ∧
  (∀ p : Ports, p.op = 0b10011#5 → decodeCommand p = .poll p.len p.now p.peerIn) ∧
  (∀ p : Ports, p.op = 0b11111#5 → decodeCommand p = .reserved1F) ∧
  decode (.wire [0x03, 0x05, 0x01, 0x2C]) = .ok (.bundleU16 0x05 300)

/-! ## The step -/

/-- R80, R13: a sample that presents a command runs the operation it decodes to, after the sample has been taken. That
samples come as a list is the model's choice (assumption 8). -/
def Obligations.StepRunsThePresentedOperation : Prop :=
  ∀ (s : State) (p : Ports) (rest : List Ports) (i : Instr),
    s.inputs = p :: rest → p.rst = false → p.cmdValid = true → decode (.command p) = .ok i →
    step s = exec i { s with inputs := rest }

/-- A command word placed by `withFetchWord` is what the next step runs, and the rest of the state is as it was. The
placing is the model's interface (assumption 13). -/
def Obligations.PlacedWordRunsNext : Prop :=
  ∀ (s : State) (nbits w : Nat) (i : Instr),
    decodeTableWord nbits w = some i → step (s.withFetchWord nbits w) = exec i s

/-- R220's table, for a reset of a running instance by a sample with `rst = 1`. That the sample's own `now` is the one
taken, and that `rst` wins over `cmd_valid`, is the model's choice (assumption 9); so are the last two clauses, that the
samples to come are kept as a list (assumption 8) and that the result ports show nothing (assumption 10). That the list of
what was emitted is kept is the model's choice as well (assumption 11). -/
def Obligations.ResetSampleGivesTheResetTable : Prop :=
  ∀ (s : State) (p : Ports) (rest : List Ports), s.inputs = p :: rest → p.rst = true →
    ∃ t, step s = .next t ∧ t.activeSel = 0 ∧ t.activeSize = 0 ∧ t.peerValid = false ∧ t.startTs = p.now % 2 ^ s.cfg.timeW ∧
      t.ctrlSeen = false ∧ t.enabled = false ∧ t.txCursor = 6 ∧ t.txPending = false ∧ t.buf0.wf ∧ t.buf1.wf ∧
      t.txbuf.wf ∧ t.cfg = s.cfg ∧ t.events = s.events ∧ t.inputs = rest ∧ t.result = none

/-- R220, R24, R25, R29 to R31: the values the spec gives for reset, in `State.reset`. `start_ts` is not among them: its
value there is the model's choice (assumption 7). And the parameter values that R6 gives, the defaults of D3 and D6 being
the spec's own presumption (assumption 3). -/
def Obligations.StateResetHoldsTheSpecValues : Prop :=
  State.reset.activeSel = 0 ∧ State.reset.activeSize = 0 ∧ State.reset.peerValid = false ∧
  State.reset.ctrlSeen = false ∧ State.reset.enabled = false ∧ State.reset.txCursor = 6 ∧
  State.reset.txPending = false ∧ State.reset.events = [] ∧
  State.reset.cfg.protocolVersion = 0x02 ∧ State.reset.cfg.msgControl = 0x01 ∧ State.reset.cfg.minFrameLen = 5 ∧
  State.reset.cfg.hwmU8 = 252 ∧ State.reset.cfg.hwmI32 = 249 ∧ State.reset.cfg.timeW = 32 ∧ State.reset.cfg.peerW = 48

/-- R221: "The engine does nothing until the host issues an operation", and what each operation first answers. It holds
for every configuration, every time of reset and every reset content of the memories; the appends of a configured mark
where the configuration is legal and the mark is above the header. That no sample left is an idle step that shows no result
is the model's choice (assumptions 8 and 10). -/
def Obligations.FirstBehaviourAfterReset : Prop :=
  ∀ (cfg : Config) (n : Nat) (t : Time) (ins : List Ports) (evs : List Event),
    let s := State.afterReset cfg n t ins evs
    (ins = [] → step s = .next s) ∧
    (∀ id, exec (.bndLocate id) s = .next (answered s .notFound 0 0)) ∧
    (∀ id idx, exec (.bndComp id idx) s = .next (answered s .notFound 0 0)) ∧
    (∀ id, exec (.bndSize id) s = .next (answered s .notFound 0 0)) ∧
    exec .actInfo s = .next (answered s .ok 0 0) ∧
    exec .rxBegin s = .next (answered s .ok 0 1) ∧
    exec .txInfo s = .next (answered s .ok 0 6) ∧
    (∀ now, exec (.txFlush now) s = .next (answered s .noPeer 0 0)) ∧
    (∀ now, exec (.wdEval now) s = .next (answered s .ok 0 0)) ∧
    (cfg.legal → 6 < cfg.hwmU8.toNat → ∀ id v, ∃ u, exec (.txAppend8 id v) s = .next u ∧ u.result = some ⟨.ok, 0, 9⟩) ∧
    (∀ id v, ∃ u, exec (.txAppend16 id v) s = .next u ∧ u.result = some ⟨.ok, 0, 10⟩) ∧
    (cfg.legal → 6 < cfg.hwmI32.toNat → ∀ id v, ∃ u, exec (.txAppend32 id v) s = .next u ∧ u.result = some ⟨.ok, 0, 12⟩)

/-- R210: "Between operations the engine holds its state and does nothing." That no sample left is such a step, and that a
sample which presents nothing is taken off the list, is the model's choice (assumption 8); so is that such a step shows no
result (assumption 10). -/
def Obligations.IdleStepHoldsTheState : Prop :=
  (∀ s : State, s.inputs = [] → step s = .next { s with result := none }) ∧
  (∀ (s : State) (p : Ports) (rest : List Ports), s.inputs = p :: rest → p.rst = false → p.cmdValid = false →
    step s = .next { s with inputs := rest, result := none })

/-! ## CRC Engine -/

/-- R101: the checksum of the empty sequence and the recurrence, for every table. -/
def Obligations.ChecksumFollowsTheRecurrence : Prop :=
  ∀ table : Vector Half 256, crc16 table [] = 0x0000 ∧
    ∀ (bytes : List Byte) (b : Byte) (k : Fin 256),
      k.val = ((crc16 table bytes ^^^ b.setWidth 16) &&& 0x00FF).toNat →
      crc16 table (bytes ++ [b]) = (crc16 table bytes >>> 8) ^^^ table[k]

/-- R102: the 256 listed entries are the table of the reflected polynomial `0xA001`, built as the rule says; and that
table is the default. -/
def Obligations.DefaultTableIsTheReflectedA001Table : Prop :=
  Config.deployed.crcTable = Config.defaultCrcTable ∧
  ∀ i : Fin 256, Config.defaultCrcTable[i] =
    Nat.iterate (fun t : Half => if t.getLsbD 0 then (t >>> 1) ^^^ 0xA001 else t >>> 1) 8 (BitVec.ofNat 16 i.val)

/-- R103: `CRC16` for every `sel` and `len`; nothing but the result ports changes. -/
def Obligations.Crc16AnswersTheChecksum : Prop :=
  ∀ (sel : BitVec 2) (len : Len) (s : State),
    (256 < len.toNat ∨ sel = 3 → exec (.crc16 sel len) s = .next (answered s .illegal 0 0)) ∧
    (len.toNat ≤ 256 → sel ≠ 3 → s.Sound →
      ∃ bytes, (if sel = 0 then s.rxb else if sel = 1 then s.act else s.txbuf).readBytes 0 len.toNat = some bytes ∧
        exec (.crc16 sel len) s = .next (answered s .ok (crc16 s.cfg.crcTable bytes) 0))

/-- R104: two `CRC16` operations with the same operands give the same results when the selected buffer holds the same
bytes and the table is the same, whatever else differs, the other parameters among it. -/
def Obligations.Crc16DependsOnTheBufferOnly : Prop :=
  ∀ (sel : BitVec 2) (len : Len) (s s' t t' : State),
    s'.cfg.crcTable = s.cfg.crcTable →
    (sel = 0 → s'.rxb = s.rxb) → (sel = 1 → s'.act = s.act) → (sel = 2 → s'.txbuf = s.txbuf) →
    exec (.crc16 sel len) s = .next t → exec (.crc16 sel len) s' = .next t' → t'.result = t.result

/-- R106, with the default table: after one covered byte of an accepted frame is changed, decoding fails. The rule's
strengthening to certainty is the spec's general knowledge (G4); it is proved here, for any change of one byte. -/
def Obligations.OneChangedByteIsAlwaysDetected : Prop :=
  ∀ (s t : State) (len : Len) (off v old : Byte), s.Sound → s.cfg.crcTable = Config.defaultCrcTable →
    exec (.rxDecode len) s = .next (answered s .ok 0 0) →
    off.toNat + 2 < len.toNat → s.rxb.read off.toNat = some old → v ≠ old →
    exec (.rxWrite off v) s = .next t → exec (.rxDecode len) t = .next (answered t .rejected 0 0)

/-! ## Packet Exchange Buffer -/

/-- R140. -/
def Obligations.RxBeginAnswersTheReceiveSlot : Prop :=
  ∀ s : State, exec .rxBegin s = .next (answered s .ok 0 (if s.activeSel = 0 then 1 else 0))

/-- R141: one byte of the receive slot is written; every other byte of the three memories and every register stays. -/
def Obligations.RxWriteStoresOneByte : Prop :=
  ∀ (off wdata : Byte) (s : State), s.Sound →
    ∃ t, exec (.rxWrite off wdata) s = .next t ∧
      t = { s with buf0 := t.buf0, buf1 := t.buf1, result := some ⟨.ok, 0, 0⟩ } ∧
      (∀ a, t.rxb.read a = if a = off.toNat then some wdata else s.rxb.read a) ∧
      t.act = s.act

/-- R142: the roles are exchanged and the size recorded, or, for `len > 256`, nothing changes. No byte moves. -/
def Obligations.RxCommitExchangesTheRoles : Prop :=
  ∀ (len : Len) (s : State),
    (len.toNat ≤ 256 → exec (.rxCommit len) s = .next
      { s with activeSel := 1 - s.activeSel, activeSize := len, result := some ⟨.ok, 0, (1 - s.activeSel).setWidth 9⟩ }) ∧
    (256 < len.toNat → exec (.rxCommit len) s = .next (answered s .illegal 0 0))

/-- R144. -/
def Obligations.ActInfoAnswersSizeAndSelect : Prop :=
  ∀ s : State, exec .actInfo s = .next (answered s .ok (s.activeSize.setWidth 16) (s.activeSel.setWidth 9))

/-- R145: whatever `active_size` is. -/
def Obligations.ActReadAnswersTheStoredByte : Prop :=
  ∀ (off : Byte) (s : State), s.Sound →
    ∃ b, s.act.read off.toNat = some b ∧ exec (.actRead off) s = .next (answered s .ok (b.setWidth 16) 0)

/-- R147: the handle that `RX.BEGIN` gave names the active slot after the commit, `RX.BEGIN` then gives the other one,
and the bytes of the active slot are those of the receive slot before. -/
def Obligations.CommitActivatesTheReceiveSlot : Prop :=
  ∀ (s : State) (len : Len), len.toNat ≤ 256 →
    ∃ s1 s2 s3 s4 h, exec .rxBegin s = .next s1 ∧ exec (.rxCommit len) s1 = .next s2 ∧
      exec .actInfo s2 = .next s3 ∧ exec .rxBegin s3 = .next s4 ∧
      s1.result = some ⟨.ok, 0, h⟩ ∧ s3.result = some ⟨.ok, len.setWidth 16, h⟩ ∧
      s4.result = some ⟨.ok, 0, 1 - h⟩ ∧ s2.act = s.rxb ∧ s2.rxb = s.act

/-- R146: the active slot's bytes and `active_size` change only at a commit. -/
def Obligations.ActiveFrameIsStableBetweenCommits : Prop :=
  ∀ (i : Instr) (s t : State), exec i s = .next t → (∀ len, i ≠ .rxCommit len) →
    (∀ len now q, i = .poll len now q → statusOf t ≠ some .ok) →
    t.act = s.act ∧ t.activeSize = s.activeSize ∧ t.activeSel = s.activeSel

/-- R51: only `RX.WRITE` writes a packet buffer, and then not the active slot; only appends, flushes and accepting polls
write `TXBUF`. -/
def Obligations.WhoWritesEachMemory : Prop :=
  ∀ (i : Instr) (s t : State), exec i s = .next t →
    ((∀ off v, i ≠ .rxWrite off v) → t.buf0 = s.buf0 ∧ t.buf1 = s.buf1) ∧
    (∀ off v, i = .rxWrite off v → t.act = s.act) ∧
    (bundleImage i = none → (∀ now, i ≠ .txFlush now) → (∀ len now q, i ≠ .poll len now q) → t.txbuf = s.txbuf)

/-- R87: a load writes its bytes from offset 0 of the receive slot, and nothing else but the result ports changes. -/
def Obligations.RxLoadFillsTheReceiveSlot : Prop :=
  ∀ (bytes : List Byte) (s : State), s.Sound → bytes ≠ [] → bytes.length ≤ 256 →
    ∃ t, execAll (Pseudo.rxLoad bytes).expand s = .next t ∧
      t = { s with buf0 := t.buf0, buf1 := t.buf1, result := some ⟨.ok, 0, 0⟩ } ∧
      (∀ a, t.rxb.read a = if a < bytes.length then bytes[a]? else s.rxb.read a) ∧ t.act = s.act

/-! ## Frame Codec -/

/-- R111, R112: `RX.DECODE` answers by the three conditions on the first `len` bytes of the receive slot, and changes
nothing. `MIN_FRAME_LEN` is the parameter of R6; its value 5 is stated in `StateResetHoldsTheSpecValues`. -/
def Obligations.RxDecodeAnswersByTheThreeConditions : Prop :=
  ∀ (len : Len) (s : State),
    (len.toNat < s.cfg.minFrameLen.toNat ∨ 256 < len.toNat → exec (.rxDecode len) s = .next (answered s .rejected 0 0)) ∧
    (s.cfg.minFrameLen.toNat ≤ len.toNat → len.toNat ≤ 256 → s.Sound →
      ∃ bytes, s.rxb.readBytes 0 len.toNat = some bytes ∧
        exec (.rxDecode len) s =
          .next (answered s (if acceptable s.cfg bytes then .ok else .rejected) 0 0))

/-- R117: every frame that an operation emits, a `TX.FLUSH` or a `POLL`, satisfies the decoder's conditions (a) and (b) for
the same version and table, wherever it is received; so it is accepted where its length is no less than `MIN_FRAME_LEN`. -/
def Obligations.SentFramesAreAccepted : Prop :=
  ∀ (i : Instr) (s t u : State) (new : List Event) (q : Peer) (frame : List Byte), s.Sound →
    exec i s = .next t → t.events = s.events ++ new → .txFrame q frame ∈ new →
    u.cfg.protocolVersion = s.cfg.protocolVersion → u.cfg.crcTable = s.cfg.crcTable →
    u.cfg.minFrameLen.toNat ≤ frame.length → u.rxb.readBytes 0 frame.length = some frame →
    exec (.rxDecode (BitVec.ofNat 9 frame.length)) u = .next (answered u .ok 0 0)

/-! ## Bundle Index -/

/-- R126: the scan is the loop of the rule, turn by turn, from offset 3, with no bound on the turns left to see. -/
def Obligations.LocateFollowsTheScanLoop : Prop :=
  (∀ (id : Byte) (s : State), locate id s = scanFrom s.act s.activeSize.toNat id 3) ∧
  ∀ (m : Memory) (size : Nat) (id : Byte) (cur : Nat),
    (¬ cur + 2 < size → scanFrom m size id cur = some .notFound) ∧
    (∀ len bundleId : Byte, cur + 2 < size → m.read cur = some len → m.read (cur + 1) = some bundleId →
      scanFrom m size id cur =
        if bundleId = id then (if len = 0 then some .notFound else some (.found cur (len.toNat - 1)))
        else scanFrom m size id (cur + 1 + len.toNat))

/-- R127: `BND.LOCATE` always answers, with the payload length and the offset in their ranges. -/
def Obligations.BndLocateAnswersWhereTheBundleIs : Prop :=
  ∀ (id : Byte) (s : State), s.Sound →
    ∃ l, locate id s = some l ∧ exec (.bndLocate id) s = .next { s with result := some (locateAnswer l) } ∧
      ∀ p n, l = .found p n → n ≤ 254 ∧ 3 ≤ p ∧ p ≤ 253

/-- R128, R131: `BND.COMP` answers the stored byte for an index below the payload length and an address up to 255,
whatever `active_size` is, and `NOT_FOUND` otherwise. -/
def Obligations.BndCompAnswersTheComponent : Prop :=
  ∀ (id idx : Byte) (s : State), s.Sound →
    ∃ l, locate id s = some l ∧
      (l = .notFound → exec (.bndComp id idx) s = .next (answered s .notFound 0 0)) ∧
      (∀ p n, l = .found p n →
        (n ≤ idx.toNat ∨ 255 < p + 2 + idx.toNat → exec (.bndComp id idx) s = .next (answered s .notFound 0 0)) ∧
        (idx.toNat < n → p + 2 + idx.toNat ≤ 255 → ∃ b, s.act.read (p + 2 + idx.toNat) = some b ∧
          exec (.bndComp id idx) s = .next (answered s .ok (b.setWidth 16) 0)))

/-- R130: the payload length, the wire length byte minus one. -/
def Obligations.BndSizeAnswersThePayloadLength : Prop :=
  ∀ (id : Byte) (s : State), s.Sound →
    ∃ l, locate id s = some l ∧
      (l = .notFound → exec (.bndSize id) s = .next (answered s .notFound 0 0)) ∧
      (∀ p n, l = .found p n → exec (.bndSize id) s = .next (answered s .ok (BitVec.ofNat 16 n) 0) ∧
        ∃ len : Byte, s.act.read p = some len ∧ len.toNat = n + 1)

/-- R134: in a well-formed frame a lookup finds the first bundle with the identifier, at its offset, and nothing for an
identifier that is not there. -/
def Obligations.WellFormedFramesAreIndexed : Prop :=
  ∀ (s : State) (bundles : List Bundle) (id : Byte), (∀ b ∈ bundles, b.wellFormed = true) →
    s.activeSize.toNat = (bundleRegion bundles).length + 5 → s.activeSize.toNat ≤ 256 →
    s.act.readBytes 3 (bundleRegion bundles).length = some (bundleRegion bundles) →
    exec (.bndLocate id) s = .next (match bundles.findIdx? (fun b => decide (b.id = id)) with
      | none => answered s .notFound 0 0
      | some j => answered s .ok (BitVec.ofNat 16 ((bundles[j]?.map (·.payload.length)).getD 0))
          (BitVec.ofNat 9 (3 + (bundleRegion (bundles.take j)).length)))

/-- R125, R51: what a consumer operation answers depends on the active slot, its size and its index alone; two states
that differ in anything else, the receive slot among it, answer alike. -/
def Obligations.ConsumersSeeTheActiveFrameOnly : Prop :=
  ∀ (i : Instr) (s s' t t' : State), consumerRow i = true →
    s'.activeSel = s.activeSel → s'.activeSize = s.activeSize → s'.act = s.act →
    exec i s = .next t → exec i s' = .next t' → t'.result = t.result

/-! ## Enable Watchdog -/

/-- R155, R156, R157: `WD.EVAL` answers the enable function of `now` and the three registers, and writes nothing. -/
def Obligations.WdEvalAnswersTheEnableFunction : Prop :=
  ∀ (now : Time) (s : State), exec (.wdEval now) s =
    .next (answered s .ok (if enabledAt s.cfg.timeW s.startTs s.lastCtrlTs s.ctrlSeen now then 1 else 0) 0)

/-- R161: what refreshes the watchdog: only an accepted control frame of a `POLL`, and that one always. -/
def Obligations.OnlyAcceptedControlFramesRefresh : Prop :=
  ∀ (i : Instr) (s t : State), exec i s = .next t →
    (t.lastCtrlTs = s.lastCtrlTs ∧ t.ctrlSeen = s.ctrlSeen ∧
      (∀ len now q, i = .poll len now q → statusOf t = some .ok → t.act.read 0 ≠ some s.cfg.msgControl)) ∨
    (∃ len now q, i = .poll len now q ∧ statusOf t = some .ok ∧ t.act.read 0 = some s.cfg.msgControl ∧
      t.lastCtrlTs = now % 2 ^ s.cfg.timeW ∧ t.ctrlSeen = true)

/-- R29, R194: `enabled` is written by every `POLL`, with the enable function of the registers as the poll leaves them,
and by no other operation. -/
def Obligations.EnabledIsSampledByEveryPoll : Prop :=
  ∀ (i : Instr) (s t : State), exec i s = .next t →
    ((∀ len now q, i ≠ .poll len now q) → t.enabled = s.enabled) ∧
    (∀ len now q, i = .poll len now q → t.enabled = enabledAt t.cfg.timeW t.startTs t.lastCtrlTs t.ctrlSeen now)

/-- R162, R158: a step turns `enabled` on only more than 500 ms after reset, with a control frame accepted and at most
250 ms old. -/
def Obligations.EnabledRisesOnlyOnRecentControl : Prop :=
  ∀ s t : State, step s = .next t → s.enabled = false → t.enabled = true →
    ∃ p rest len now q, s.inputs = p :: rest ∧ p.rst = false ∧ p.cmdValid = true ∧
      decode (.command p) = .ok (.poll len now q) ∧
      t.ctrlSeen = true ∧ 500 < msSince s.cfg.timeW now s.startTs ∧
      msSince s.cfg.timeW now t.lastCtrlTs ≤ 250

/-! ## Outbound Telemetry Assembler -/

/-- R165, R167: `TX.APPEND8`, accepted or dropped by `HWM_U8` (R6; 252 in `StateResetHoldsTheSpecValues`). -/
def Obligations.Append8WritesThreeBytes : Prop :=
  ∀ (id v : Byte) (s : State),
    (s.txPending = true ∨ s.cfg.hwmU8.toNat ≤ s.txCursor.toNat →
      exec (.txAppend8 id v) s = .next (answered s .dropped 0 s.txCursor)) ∧
    (s.txPending = false → s.txCursor.toNat < s.cfg.hwmU8.toNat → s.cfg.legal → s.txbuf.wf →
      ∃ t, exec (.txAppend8 id v) s = .next t ∧
        t = { s with txbuf := t.txbuf, txCursor := s.txCursor + 3, result := some ⟨.ok, 0, s.txCursor + 3⟩ } ∧
        ∀ a, t.txbuf.read a =
          if a = s.txCursor.toNat then some 0x02 else if a = s.txCursor.toNat + 1 then some id
          else if a = s.txCursor.toNat + 2 then some v else s.txbuf.read a)

/-- R165, R168: `TX.APPEND16`, accepted or dropped; the value high byte first. -/
def Obligations.Append16WritesFourBytes : Prop :=
  ∀ (id : Byte) (v : Half) (s : State),
    (s.txPending = true ∨ 251 ≤ s.txCursor.toNat →
      exec (.txAppend16 id v) s = .next (answered s .dropped 0 s.txCursor)) ∧
    (s.txPending = false → s.txCursor.toNat < 251 → s.txbuf.wf →
      ∃ t, exec (.txAppend16 id v) s = .next t ∧
        t = { s with txbuf := t.txbuf, txCursor := s.txCursor + 4, result := some ⟨.ok, 0, s.txCursor + 4⟩ } ∧
        ∀ a, t.txbuf.read a =
          if a = s.txCursor.toNat then some 0x03 else if a = s.txCursor.toNat + 1 then some id
          else if a = s.txCursor.toNat + 2 then some (BitVec.ofNat 8 (v.toNat / 256))
          else if a = s.txCursor.toNat + 3 then some (BitVec.ofNat 8 v.toNat) else s.txbuf.read a)

/-- R165, R169: `TX.APPEND32`, accepted or dropped by `HWM_I32` (R6; 249 in `StateResetHoldsTheSpecValues`); the value most
significant byte first. -/
def Obligations.Append32WritesSixBytes : Prop :=
  ∀ (id : Byte) (v : Word) (s : State),
    (s.txPending = true ∨ s.cfg.hwmI32.toNat ≤ s.txCursor.toNat →
      exec (.txAppend32 id v) s = .next (answered s .dropped 0 s.txCursor)) ∧
    (s.txPending = false → s.txCursor.toNat < s.cfg.hwmI32.toNat → s.cfg.legal → s.txbuf.wf →
      ∃ t, exec (.txAppend32 id v) s = .next t ∧
        t = { s with txbuf := t.txbuf, txCursor := s.txCursor + 6, result := some ⟨.ok, 0, s.txCursor + 6⟩ } ∧
        ∀ a, t.txbuf.read a =
          if a = s.txCursor.toNat then some 0x05 else if a = s.txCursor.toNat + 1 then some id
          else if a = s.txCursor.toNat + 2 then some (BitVec.ofNat 8 (v.toNat / 16777216))
          else if a = s.txCursor.toNat + 3 then some (BitVec.ofNat 8 (v.toNat / 65536))
          else if a = s.txCursor.toNat + 4 then some (BitVec.ofNat 8 (v.toNat / 256))
          else if a = s.txCursor.toNat + 5 then some (BitVec.ofNat 8 v.toNat) else s.txbuf.read a)

/-- R74, R166: a wire bundle row takes its place at the cursor as the append of its form does. That these rows are run
as appends is the model's choice (assumption 12). -/
def Obligations.WireBundlesAppendTheirBytes : Prop :=
  ∀ (i : Instr) (bytes : List Byte) (mark : Nat) (s : State), encode i = .wire bytes → markOf s.cfg i = some mark →
    s.cfg.legal → s.txbuf.wf →
    (s.txPending = false → s.txCursor.toNat < mark →
      ∃ t, exec i s = .next t ∧
        t = { s with
          txbuf := t.txbuf, txCursor := t.txCursor, result := some ⟨.ok, 0, t.txCursor⟩ } ∧
        t.txCursor.toNat = s.txCursor.toNat + bytes.length ∧
        ∀ a, t.txbuf.read a = if s.txCursor.toNat ≤ a ∧ a < s.txCursor.toNat + bytes.length
          then bytes[a - s.txCursor.toNat]? else s.txbuf.read a) ∧
    (s.txPending = true ∨ mark ≤ s.txCursor.toNat →
      exec i s = .next (answered s .dropped 0 s.txCursor))

/-- R165: every append takes effect exactly if no send is pending and the bundle and the two CRC bytes still fit 256
bytes; otherwise no byte of `TXBUF` changes and the cursor does not move. So it is with the marks of R6, which R165 chooses
by this budget; with any others the first clause says when an append takes effect. Of the three wire rows it says so by the model's
choice (assumption 12). -/
def Obligations.AppendsTakeEffectWhenTheFrameStillFits : Prop :=
  ∀ (i : Instr) (image : List Byte) (s t : State), bundleImage i = some image → exec i s = .next t →
    (∃ mark, markOf s.cfg i = some mark ∧
      (statusOf t = some .ok ↔ s.txPending = false ∧ s.txCursor.toNat < mark)) ∧
    (s.cfg.hwmU8 = 252 → s.cfg.hwmI32 = 249 →
      (statusOf t = some .ok ↔ s.txPending = false ∧ s.txCursor.toNat + image.length + 2 ≤ 256)) ∧
    (statusOf t ≠ some .ok → t = answered s .dropped 0 s.txCursor)

/-- R179: 62 appends of 16 bits fit from cursor 6; the 63rd and all later ones are dropped with the cursor at 254. -/
def Obligations.SixtyTwoAppends16Fit : Prop :=
  ∀ (s : State) (ops : List (Byte × Half)), s.txbuf.wf → s.txCursor = 6 → s.txPending = false →
    ∃ t, execAll (ops.map fun o => .txAppend16 o.1 o.2) s = .next t ∧
      t.txCursor.toNat = 6 + 4 * min ops.length 62 ∧
      (ops ≠ [] → statusOf t = some (if ops.length ≤ 62 then .ok else .dropped))

/-- R170. -/
def Obligations.TxRequestSetsThePendingFlag : Prop :=
  ∀ s : State, exec .txRequest s = .next { s with txPending := true, result := some ⟨.ok, 0, 0⟩ }

/-- R171. -/
def Obligations.TxInfoAnswersFlagAndCursor : Prop :=
  ∀ s : State, exec .txInfo s = .next (answered s .ok (if s.txPending then 1 else 0) s.txCursor)

/-- R172: whatever `tx_cursor` is. -/
def Obligations.TxReadAnswersTheStoredByte : Prop :=
  ∀ (off : Byte) (s : State), s.Sound →
    ∃ b, s.txbuf.read off.toNat = some b ∧ exec (.txRead off) s = .next (answered s .ok (b.setWidth 16) 0)

/-- R175, R176: with no peer the whole flush is a no-op. -/
def Obligations.FlushWithoutPeerChangesNothing : Prop :=
  ∀ (now : Time) (s : State), s.peerValid = false → exec (.txFlush now) s = .next (answered s .noPeer 0 0)

/-- R71, R76, R77, R116, R175, R176: with a peer the flush writes the header and the CRC around the bundles, sends the
frame to the peer, resets cursor and flag, and answers the length; every byte of `TXBUF` above the frame and every other
register and memory stays. -/
def Obligations.FlushSendsTheFrame : Prop :=
  ∀ (now : Time) (s : State), s.Sound → s.peerValid = true →
    ∃ t bundles frame, exec (.txFlush now) s = .next t ∧
      s.txbuf.readBytes 6 (s.txCursor.toNat - 6) = some bundles ∧
      frame = feedbackFrame s.cfg s.startTs s.lastCtrlTs s.ctrlSeen now bundles ∧
      t = { s with
        txbuf := t.txbuf, txCursor := 6, txPending := false
        events := s.events ++ [.txFrame s.peer frame]
        result := some ⟨.ok, 0, s.txCursor + 2⟩ } ∧
      frame.length = s.txCursor.toNat + 2 ∧
      t.txbuf.readBytes 0 frame.length = some frame ∧
      ∀ a, frame.length ≤ a → t.txbuf.read a = s.txbuf.read a

/-- R180: at every moment the bytes from offset 6 up to the cursor are whole bundles, one after the other; no step
tears one. -/
def Obligations.StepKeepsWholeBundles : Prop :=
  ∀ s t : State, s.Sound → s.WholeBundles → step s = .next t → t.WholeBundles

/-! ## The poll cycle -/

/-- R192, R194: a `POLL` with no datagram, or with one that `RX.DECODE` would reject, changes nothing but `enabled`. -/
def Obligations.PollWithoutAcceptedFrameSamplesEnable : Prop :=
  ∀ (len : Len) (now : Time) (q : Peer) (s : State) (e : Bool),
    e = enabledAt s.cfg.timeW s.startTs s.lastCtrlTs s.ctrlSeen now →
    (len = 0 → exec (.poll len now q) s = .next (polledOnly s .noData e)) ∧
    (len ≠ 0 → exec (.rxDecode len) s = .next (answered s .rejected 0 0) →
      exec (.poll len now q) s = .next (polledOnly s .rejected e))

/-- R190, R191, R193, R194: the whole cycle. With no datagram or a rejected one only step 7 (as
`PollWithoutAcceptedFrameSamplesEnable` says of every state). Of a frame that `RX.DECODE` would accept: commit, peer, and
for a control frame strobe and refresh; then the reply to the frame's sender, computed after the refresh; then `enabled`.
The whole next state. A tag or time of its port's width is its own remainder. -/
def Obligations.PollAcceptsAndReplies : Prop :=
  ∀ (len : Len) (now : Time) (q : Peer) (s : State), s.Sound →
    (len = 0 → exec (.poll len now q) s =
      .next (polledOnly s .noData (enabledAt s.cfg.timeW s.startTs s.lastCtrlTs s.ctrlSeen now))) ∧
    (len ≠ 0 → exec (.rxDecode len) s = .next (answered s .rejected 0 0) → exec (.poll len now q) s =
      .next (polledOnly s .rejected (enabledAt s.cfg.timeW s.startTs s.lastCtrlTs s.ctrlSeen now))) ∧
    (exec (.rxDecode len) s = .next (answered s .ok 0 0) →
      ∃ t messageType bundles last seen ctrl e origin frame, exec (.poll len now q) s = .next t ∧
        s.rxb.read 0 = some messageType ∧ ctrl = decide (messageType = s.cfg.msgControl) ∧
        last = (if ctrl then now % 2 ^ s.cfg.timeW else s.lastCtrlTs) ∧ seen = (ctrl || s.ctrlSeen) ∧
        e = enabledAt s.cfg.timeW s.startTs last seen now ∧ origin = q % 2 ^ s.cfg.peerW ∧
        s.txbuf.readBytes 6 (s.txCursor.toNat - 6) = some bundles ∧
        frame = feedbackFrame s.cfg s.startTs last seen now bundles ∧
        t = { s with
          activeSel := 1 - s.activeSel, activeSize := len, peer := origin, peerValid := true
          lastCtrlTs := last, ctrlSeen := seen, enabled := e
          txbuf := t.txbuf, txCursor := 6, txPending := false
          events := s.events ++ (if ctrl then [.ctrlStrobe] else []) ++ [.txFrame origin frame]
          result := some ⟨.ok, (if ctrl then 2 else 0) + (if e then 1 else 0), s.txCursor + 2⟩ } ∧
        t.act = s.rxb ∧ frame.length = s.txCursor.toNat + 2 ∧
        t.txbuf.readBytes 0 frame.length = some frame ∧
        ∀ a, frame.length ≤ a → t.txbuf.read a = s.txbuf.read a)

/-- R195, R12: an operation emits nothing, one `tx_frame`, or a `ctrl_strobe` and then a `tx_frame`; only `TX.FLUSH` and
`POLL` emit, only a `POLL` strobes, and a `POLL` returns `NO_DATA`, `REJECTED` or `OK`. -/
def Obligations.OperationsEmitAtMostOneFrame : Prop :=
  ∀ (i : Instr) (s t : State), exec i s = .next t →
    ∃ new, t.events = s.events ++ new ∧
      (new = [] ∨ (∃ q frame, new = [.txFrame q frame]) ∨ ∃ q frame, new = [.ctrlStrobe, .txFrame q frame]) ∧
      ((∀ now, i ≠ .txFlush now) → (∀ len now q, i ≠ .poll len now q) → new = []) ∧
      ((∀ len now q, i ≠ .poll len now q) → .ctrlStrobe ∉ new) ∧
      (∀ len now q, i = .poll len now q →
        statusOf t = some .noData ∨ statusOf t = some .rejected ∨ statusOf t = some .ok)

/-! ## The whole machine -/

/-- R84: the reserved op codes answer `ILLEGAL`, change no state and emit no event. -/
def Obligations.ReservedOpCodesAnswerIllegal : Prop :=
  ∀ (p : Ports) (s : State), p.op.toNat = 0 ∨ 0x14 ≤ p.op.toNat →
    ∃ i, decode (.command p) = .ok i ∧ exec i s = .next (answered s .illegal 0 0)

/-- R200, R85: `ILLEGAL` is the answer to exactly the malformed commands, and every operation answers some status. -/
def Obligations.IllegalExactlyForMalformedCommands : Prop :=
  ∀ (i : Instr) (s t : State), exec i s = .next t →
    ∃ r, t.result = some r ∧ (r.st = .illegal ↔ i.wellFormed = false)

/-- R201: an operation that returns a status other than `OK` has changed nothing, but for `enabled` in a `POLL`. -/
def Obligations.NonOkStatusesChangeNothing : Prop :=
  ∀ (i : Instr) (s t : State) (r : Result), exec i s = .next t → t.result = some r → r.st ≠ .ok →
    t = { s with enabled := t.enabled, result := some r } ∧
    ((∀ len now q, i ≠ .poll len now q) → t.enabled = s.enabled)

/-- R35 (d): `peer_valid` and `ctrl_seen` never go from 1 to 0 by an operation. -/
def Obligations.SeenFlagsNeverFall : Prop :=
  ∀ (i : Instr) (s t : State), exec i s = .next t →
    (s.peerValid = true → t.peerValid = true) ∧ (s.ctrlSeen = true → t.ctrlSeen = true)

/-- R27, R222: no operation writes `start_ts` or the configuration. The last two clauses are about the model's own fields
and follow from no rule: the samples to come are a list that an operation leaves alone (assumption 8), and the number of
resets is a counter that only a reset advances (assumption 5). -/
def Obligations.ConfigurationAndStartTimeAreConstant : Prop :=
  ∀ (i : Instr) (s t : State), exec i s = .next t →
    t.cfg = s.cfg ∧ t.startTs = s.startTs ∧ t.inputs = s.inputs ∧ t.resets = s.resets

/-- R35 (f): as long as no bare `RX.COMMIT` is issued, the active frame is empty or satisfies `decode_ok`. -/
def Obligations.ActiveFrameStaysValidWithoutBareCommits : Prop :=
  ∀ s t : State, s.Sound → s.ActiveFrameValid → step s = .next t →
    (∀ p rest len, s.inputs = p :: rest → p.rst = false → p.cmdValid = true → decode (.command p) ≠ .ok (.rxCommit len)) →
    t.ActiveFrameValid

/-- R35 (a), (b), (e), the shape of the memories, a legal configuration and the widths of R26 to R28: every step keeps them. -/
def Obligations.StepKeepsTheInvariants : Prop :=
  ∀ s t : State, s.Sound → step s = .next t → t.Sound

/-- The state after reset, for every legal configuration and every time, and `State.reset` with it, meets the invariants. -/
def Obligations.ResetMeetsTheInvariants : Prop :=
  (∀ (cfg : Config) (n : Nat) (t : Time) (ins : List Ports) (evs : List Event), cfg.legal →
    (State.afterReset cfg n t ins evs).Sound ∧ (State.afterReset cfg n t ins evs).WholeBundles ∧
    (State.afterReset cfg n t ins evs).ActiveFrameValid) ∧
  State.reset.Sound ∧ State.reset.WholeBundles ∧ State.reset.ActiveFrameValid

/-- R236, R200: "Every operation is total over its operands and over all reachable states": from a state that meets the
invariants every operation and every step answers a next state, with no fault and no refusal. -/
def Obligations.SoundStatesAlwaysStep : Prop :=
  ∀ s : State, s.Sound → (∃ t, step s = .next t) ∧ ∀ i, ∃ t, exec i s = .next t
end

