-- ==== Sys2Proof/Laws/Memory.lean ====
section
/-! SUPPORT. The laws of a byte memory: a write changes exactly the addressed byte (R55), the canonical form is kept, an
address 0 to 255 always has a byte and no other address has one (R50, R56). -/

namespace Sys2Proof.Machine

open Sys2Proof

/-! ## One byte -/

theorem write_keys {m m' : Memory} {a : Nat} {v : Byte} (h : m.write a v = some m') :
    m'.map Prod.fst = m.map Prod.fst := by
  induction m generalizing m' with
  | nil => simp [Memory.write] at h
  | cons c m ih =>
    obtain ⟨k, b⟩ := c
    simp only [Memory.write] at h
    split at h
    · simp only [Option.some.injEq] at h; subst h; rfl
    · simp only [Option.map_eq_some_iff] at h
      obtain ⟨m₁, h₁, rfl⟩ := h
      simp [ih h₁]

theorem write_wf {m m' : Memory} {a : Nat} {v : Byte} (h : m.write a v = some m') (hm : m.wf) : m'.wf := by
  rw [Memory.wf, write_keys h]; exact hm

/-- R55: "A write changes exactly the addressed byte." -/
theorem read_write {m m' : Memory} {a : Nat} {v : Byte} (h : m.write a v = some m') (b : Nat) :
    m'.read b = if b = a then some v else m.read b := by
  induction m generalizing m' with
  | nil => simp [Memory.write] at h
  | cons c m ih =>
    obtain ⟨k, x⟩ := c
    simp only [Memory.write] at h
    split at h
    · next hk =>
      simp only [Option.some.injEq] at h; subst h; subst hk
      simp only [Memory.read]
      by_cases hb : k = b
      · subst hb; simp
      · simp [hb, Ne.symm hb]
    · next hk =>
      simp only [Option.map_eq_some_iff] at h
      obtain ⟨m₁, h₁, rfl⟩ := h
      simp only [Memory.read, ih h₁]
      by_cases hb : k = b
      · subst hb; simp [hk]
      · simp [hb]

/-- A byte can be written exactly where one can be read. -/
theorem write_isSome (m : Memory) (a : Nat) (v : Byte) : (m.write a v).isSome = (m.read a).isSome := by
  induction m with
  | nil => rfl
  | cons c m ih =>
    obtain ⟨k, x⟩ := c
    simp only [Memory.write, Memory.read]
    split <;> simp [ih]

theorem read_isSome_iff (m : Memory) (a : Nat) : (m.read a).isSome ↔ a ∈ m.map Prod.fst := by
  induction m with
  | nil => simp [Memory.read]
  | cons c m ih =>
    obtain ⟨k, x⟩ := c
    simp only [Memory.read, List.map_cons, List.mem_cons]
    split
    · next h => simp [h]
    · next h => rw [ih]; simp [Ne.symm h]

/-- R50: a memory has the addresses 0 to 255 and no others. -/
theorem read_isSome_of_wf {m : Memory} (hm : m.wf) (a : Nat) : (m.read a).isSome ↔ a < 256 := by
  rw [read_isSome_iff, hm, List.mem_range]

theorem read_of_wf {m : Memory} (hm : m.wf) {a : Nat} (ha : a < 256) : ∃ b, m.read a = some b :=
  Option.isSome_iff_exists.mp ((read_isSome_of_wf hm a).mpr ha)

theorem write_of_wf {m : Memory} (hm : m.wf) {a : Nat} (ha : a < 256) (v : Byte) : ∃ m', m.write a v = some m' :=
  Option.isSome_iff_exists.mp ((write_isSome m a v).trans ((read_isSome_of_wf hm a).mpr ha))

/-! ## Runs of bytes -/

@[simp] theorem readBytes_zero (m : Memory) (a : Nat) : m.readBytes a 0 = some [] := rfl

theorem readBytes_succ (m : Memory) (a n : Nat) :
    m.readBytes a (n + 1) = (m.read a).bind fun b => (m.readBytes (a + 1) n).map (b :: ·) := rfl

/-- `readBytes` answers exactly the bytes in their order. -/
theorem readBytes_eq_some_iff (m : Memory) (a n : Nat) (bs : List Byte) :
    m.readBytes a n = some bs ↔ bs.length = n ∧ ∀ i, i < n → m.read (a + i) = bs[i]? := by
  induction n generalizing a bs with
  | zero =>
    simp only [readBytes_zero, Option.some.injEq, Nat.not_lt_zero, false_implies, implies_true, and_true]
    rw [List.length_eq_zero_iff]; exact eq_comm
  | succ n ih =>
    rw [readBytes_succ]
    constructor
    · intro h
      simp only [Option.bind_eq_some_iff, Option.map_eq_some_iff] at h
      obtain ⟨b, hb, cs, hcs, rfl⟩ := h
      obtain ⟨hl, hi⟩ := (ih _ _).mp hcs
      refine ⟨by simp [hl], fun i hin => ?_⟩
      cases i with
      | zero => simpa using hb
      | succ i => simpa [Nat.add_assoc, Nat.add_comm 1 i] using hi i (by omega)
    · rintro ⟨hl, hi⟩
      cases bs with
      | nil => simp at hl
      | cons b cs =>
        have hb : m.read a = some b := by simpa using hi 0 (by omega)
        have hcs : m.readBytes (a + 1) n = some cs := by
          refine (ih _ _).mpr ⟨by simpa using hl, fun i hin => ?_⟩
          simpa [Nat.add_assoc, Nat.add_comm 1 i] using hi (i + 1) (by omega)
        simp [hb, hcs]

theorem readBytes_length {m : Memory} {a n : Nat} {bs : List Byte} (h : m.readBytes a n = some bs) :
    bs.length = n := ((readBytes_eq_some_iff m a n bs).mp h).1

theorem readBytes_of_wf {m : Memory} (hm : m.wf) {a n : Nat} (h : a + n ≤ 256) : ∃ bs, m.readBytes a n = some bs := by
  induction n generalizing a with
  | zero => exact ⟨[], rfl⟩
  | succ n ih =>
    obtain ⟨b, hb⟩ := read_of_wf hm (a := a) (by omega)
    obtain ⟨bs, hbs⟩ := ih (a := a + 1) (by omega)
    exact ⟨b :: bs, by simp [readBytes_succ, hb, hbs]⟩

/-- Two memories that agree on a range give the same bytes there. -/
theorem readBytes_congr {m m' : Memory} {a n : Nat} (h : ∀ i, i < n → m'.read (a + i) = m.read (a + i)) :
    m'.readBytes a n = m.readBytes a n := by
  induction n generalizing a with
  | zero => rfl
  | succ n ih =>
    have h0 : m'.read a = m.read a := by simpa using h 0 (by omega)
    have h1 : m'.readBytes (a + 1) n = m.readBytes (a + 1) n := by
      refine ih fun i hi => ?_
      simpa [Nat.add_assoc, Nat.add_comm 1 i] using h (i + 1) (by omega)
    rw [readBytes_succ, readBytes_succ, h0, h1]

/-- A run of bytes is the run of its first part followed by the run of its second. -/
theorem readBytes_add (m : Memory) (a n k : Nat) :
    m.readBytes a (n + k) = (m.readBytes a n).bind fun xs => (m.readBytes (a + n) k).map (xs ++ ·) := by
  induction n generalizing a with
  | zero => simp
  | succ n ih =>
    rw [Nat.add_right_comm n 1 k, readBytes_succ, readBytes_succ, ih]
    rw [Nat.add_assoc a 1 n, Nat.add_comm 1 n]
    cases m.read a <;> simp
    cases m.readBytes (a + 1) n <;> simp
    cases m.readBytes (a + (n + 1)) k <;> simp

theorem writeBytes_cons (m : Memory) (a : Nat) (b : Byte) (bs : List Byte) :
    m.writeBytes a (b :: bs) = (m.write a b).bind fun m' => m'.writeBytes (a + 1) bs := rfl

theorem writeBytes_keys {m m' : Memory} {a : Nat} {bs : List Byte} (h : m.writeBytes a bs = some m') :
    m'.map Prod.fst = m.map Prod.fst := by
  induction bs generalizing m a with
  | nil => simp only [Memory.writeBytes, Option.some.injEq] at h; rw [h]
  | cons b bs ih =>
    rw [writeBytes_cons, Option.bind_eq_some_iff] at h
    obtain ⟨m₁, h₁, h₂⟩ := h
    rw [ih h₂, write_keys h₁]

theorem writeBytes_wf {m m' : Memory} {a : Nat} {bs : List Byte} (h : m.writeBytes a bs = some m') (hm : m.wf) :
    m'.wf := by
  rw [Memory.wf, writeBytes_keys h]; exact hm

/-- Everything a run of writes does: the bytes in their order from `a` up, and every other byte as before. -/
theorem read_writeBytes {m m' : Memory} {a : Nat} {bs : List Byte} (h : m.writeBytes a bs = some m') (c : Nat) :
    m'.read c = if a ≤ c ∧ c < a + bs.length then bs[c - a]? else m.read c := by
  induction bs generalizing m a with
  | nil =>
    simp only [Memory.writeBytes, Option.some.injEq] at h; subst h
    rw [if_neg (by simp)]
  | cons b bs ih =>
    rw [writeBytes_cons, Option.bind_eq_some_iff] at h
    obtain ⟨m₁, h₁, h₂⟩ := h
    rw [ih h₂, read_write h₁, List.length_cons]
    by_cases hc : c = a
    · subst hc
      rw [if_neg (by omega), if_pos rfl, if_pos (by omega)]
      simp
    · by_cases hin : a + 1 ≤ c ∧ c < a + 1 + bs.length
      · rw [if_pos hin, if_pos (by omega)]
        obtain ⟨d, hd⟩ : ∃ d, c - a = d + 1 := ⟨c - a - 1, by omega⟩
        rw [hd, show c - (a + 1) = d by omega, List.getElem?_cons_succ]
      · rw [if_neg hin, if_neg hc, if_neg (by omega)]

theorem readBytes_writeBytes_self {m m' : Memory} {a : Nat} {bs : List Byte} (h : m.writeBytes a bs = some m') :
    m'.readBytes a bs.length = some bs := by
  refine (readBytes_eq_some_iff _ _ _ _).mpr ⟨rfl, fun i hi => ?_⟩
  rw [read_writeBytes h, if_pos (by omega), Nat.add_sub_cancel_left]

theorem writeBytes_of_wf {m : Memory} (hm : m.wf) {a : Nat} {bs : List Byte} (h : a + bs.length ≤ 256) :
    ∃ m', m.writeBytes a bs = some m' := by
  induction bs generalizing m a with
  | nil => exact ⟨m, rfl⟩
  | cons b bs ih =>
    rw [List.length_cons] at h
    obtain ⟨m₁, h₁⟩ := write_of_wf hm (a := a) (by omega) b
    obtain ⟨m₂, h₂⟩ := ih (write_wf h₁ hm) (a := a + 1) (by omega)
    exact ⟨m₂, by simp [writeBytes_cons, h₁, h₂]⟩

/-! ## The canonical form -/

/-- Equal memories are equal data: two memories with the same bytes are the same list. -/
theorem memory_ext {m m' : Memory} (hm : m.wf) (hm' : m'.wf) (h : ∀ a, a < 256 → m'.read a = m.read a) : m' = m := by
  have key : ∀ (ks : List Nat) (m m' : Memory), ks.Nodup → m.map Prod.fst = ks → m'.map Prod.fst = ks →
      (∀ a ∈ ks, m'.read a = m.read a) → m' = m := by
    intro ks
    induction ks with
    | nil =>
      intro m m' _ h1 h2 _
      rw [List.map_eq_nil_iff.mp h1, List.map_eq_nil_iff.mp h2]
    | cons k ks ih =>
      intro m m' hnd h1 h2 h
      obtain ⟨⟨k₁, x⟩, m₁, rfl, hk₁, hm₁⟩ := List.map_eq_cons_iff.mp h1
      obtain ⟨⟨k₂, y⟩, m₂, rfl, hk₂, hm₂⟩ := List.map_eq_cons_iff.mp h2
      simp only at hk₁ hk₂
      subst hk₁; subst hk₂
      have hy : y = x := by simpa [Memory.read] using h _ (List.mem_cons_self ..)
      rw [List.nodup_cons] at hnd
      have : m₂ = m₁ := by
        refine ih m₁ m₂ hnd.2 hm₁ hm₂ fun a ha => ?_
        have hne : k₂ ≠ a := fun e => hnd.1 (e ▸ ha)
        simpa [Memory.read, hne] using h a (List.mem_cons_of_mem _ ha)
      rw [hy, this]
  exact key _ m m' List.nodup_range hm hm' fun a ha => h a (List.mem_range.mp ha)

theorem freshMemory_wf (n : Nat) (k : Space) : (State.freshMemory n k).wf := by
  simp [Memory.wf, State.freshMemory, Function.comp_def]

/-- R220: after a reset every byte is the free value of its address. -/
theorem freshMemory_read (n : Nat) (k : Space) {a : Nat} (h : a < 256) :
    (State.freshMemory n k).read a = some (Config.resetByte n k a) := by
  have key : ∀ ks : List Nat, a ∈ ks →
      Memory.read (ks.map fun a => (a, Config.resetByte n k a)) a = some (Config.resetByte n k a) := by
    intro ks
    induction ks with
    | nil => simp
    | cons c ks ih =>
      intro hmem
      simp only [List.map_cons, Memory.read]
      split
      · next h => rw [h]
      · next h => exact ih ((List.mem_cons.mp hmem).resolve_left (Ne.symm h))
  exact key _ (List.mem_range.mpr h)

end Sys2Proof.Machine
end

