-- ==== Sys2Proof/Laws/State.lean ====
section
/-! SUPPORT. One lemma per field per named update of a state, each true by computation, so that no later proof unfolds a
record update; and the three memories under each update. -/

namespace Sys2Proof.Machine

open Sys2Proof

/-! ## answer -/

@[simp] theorem answer_cfg (s : State) (st : Status) (a : Half) (b : Len) : (s.answer st a b).cfg = s.cfg := rfl
@[simp] theorem answer_buf0 (s : State) (st : Status) (a : Half) (b : Len) : (s.answer st a b).buf0 = s.buf0 := rfl
@[simp] theorem answer_buf1 (s : State) (st : Status) (a : Half) (b : Len) : (s.answer st a b).buf1 = s.buf1 := rfl
@[simp] theorem answer_txbuf (s : State) (st : Status) (a : Half) (b : Len) : (s.answer st a b).txbuf = s.txbuf := rfl
@[simp] theorem answer_activeSel (s : State) (st : Status) (a : Half) (b : Len) : (s.answer st a b).activeSel = s.activeSel := rfl
@[simp] theorem answer_activeSize (s : State) (st : Status) (a : Half) (b : Len) : (s.answer st a b).activeSize = s.activeSize := rfl
@[simp] theorem answer_peer (s : State) (st : Status) (a : Half) (b : Len) : (s.answer st a b).peer = s.peer := rfl
@[simp] theorem answer_peerValid (s : State) (st : Status) (a : Half) (b : Len) : (s.answer st a b).peerValid = s.peerValid := rfl
@[simp] theorem answer_startTs (s : State) (st : Status) (a : Half) (b : Len) : (s.answer st a b).startTs = s.startTs := rfl
@[simp] theorem answer_lastCtrlTs (s : State) (st : Status) (a : Half) (b : Len) : (s.answer st a b).lastCtrlTs = s.lastCtrlTs := rfl
@[simp] theorem answer_ctrlSeen (s : State) (st : Status) (a : Half) (b : Len) : (s.answer st a b).ctrlSeen = s.ctrlSeen := rfl
@[simp] theorem answer_enabled (s : State) (st : Status) (a : Half) (b : Len) : (s.answer st a b).enabled = s.enabled := rfl
@[simp] theorem answer_txCursor (s : State) (st : Status) (a : Half) (b : Len) : (s.answer st a b).txCursor = s.txCursor := rfl
@[simp] theorem answer_txPending (s : State) (st : Status) (a : Half) (b : Len) : (s.answer st a b).txPending = s.txPending := rfl
@[simp] theorem answer_inputs (s : State) (st : Status) (a : Half) (b : Len) : (s.answer st a b).inputs = s.inputs := rfl
@[simp] theorem answer_result (s : State) (st : Status) (a : Half) (b : Len) : (s.answer st a b).result = some ⟨st, a, b⟩ := rfl
@[simp] theorem answer_events (s : State) (st : Status) (a : Half) (b : Len) : (s.answer st a b).events = s.events := rfl
@[simp] theorem answer_resets (s : State) (st : Status) (a : Half) (b : Len) : (s.answer st a b).resets = s.resets := rfl

/-! ## raise -/

@[simp] theorem raise_cfg (s : State) (st : Status) : (s.raise st).cfg = s.cfg := rfl
@[simp] theorem raise_buf0 (s : State) (st : Status) : (s.raise st).buf0 = s.buf0 := rfl
@[simp] theorem raise_buf1 (s : State) (st : Status) : (s.raise st).buf1 = s.buf1 := rfl
@[simp] theorem raise_txbuf (s : State) (st : Status) : (s.raise st).txbuf = s.txbuf := rfl
@[simp] theorem raise_activeSel (s : State) (st : Status) : (s.raise st).activeSel = s.activeSel := rfl
@[simp] theorem raise_activeSize (s : State) (st : Status) : (s.raise st).activeSize = s.activeSize := rfl
@[simp] theorem raise_peer (s : State) (st : Status) : (s.raise st).peer = s.peer := rfl
@[simp] theorem raise_peerValid (s : State) (st : Status) : (s.raise st).peerValid = s.peerValid := rfl
@[simp] theorem raise_startTs (s : State) (st : Status) : (s.raise st).startTs = s.startTs := rfl
@[simp] theorem raise_lastCtrlTs (s : State) (st : Status) : (s.raise st).lastCtrlTs = s.lastCtrlTs := rfl
@[simp] theorem raise_ctrlSeen (s : State) (st : Status) : (s.raise st).ctrlSeen = s.ctrlSeen := rfl
@[simp] theorem raise_enabled (s : State) (st : Status) : (s.raise st).enabled = s.enabled := rfl
@[simp] theorem raise_txCursor (s : State) (st : Status) : (s.raise st).txCursor = s.txCursor := rfl
@[simp] theorem raise_txPending (s : State) (st : Status) : (s.raise st).txPending = s.txPending := rfl
@[simp] theorem raise_inputs (s : State) (st : Status) : (s.raise st).inputs = s.inputs := rfl
@[simp] theorem raise_result (s : State) (st : Status) : (s.raise st).result = some ⟨st, 0, 0⟩ := rfl
@[simp] theorem raise_events (s : State) (st : Status) : (s.raise st).events = s.events := rfl
@[simp] theorem raise_resets (s : State) (st : Status) : (s.raise st).resets = s.resets := rfl

/-! ## emit -/

@[simp] theorem emit_cfg (s : State) (e : Event) : (s.emit e).cfg = s.cfg := rfl
@[simp] theorem emit_buf0 (s : State) (e : Event) : (s.emit e).buf0 = s.buf0 := rfl
@[simp] theorem emit_buf1 (s : State) (e : Event) : (s.emit e).buf1 = s.buf1 := rfl
@[simp] theorem emit_txbuf (s : State) (e : Event) : (s.emit e).txbuf = s.txbuf := rfl
@[simp] theorem emit_activeSel (s : State) (e : Event) : (s.emit e).activeSel = s.activeSel := rfl
@[simp] theorem emit_activeSize (s : State) (e : Event) : (s.emit e).activeSize = s.activeSize := rfl
@[simp] theorem emit_peer (s : State) (e : Event) : (s.emit e).peer = s.peer := rfl
@[simp] theorem emit_peerValid (s : State) (e : Event) : (s.emit e).peerValid = s.peerValid := rfl
@[simp] theorem emit_startTs (s : State) (e : Event) : (s.emit e).startTs = s.startTs := rfl
@[simp] theorem emit_lastCtrlTs (s : State) (e : Event) : (s.emit e).lastCtrlTs = s.lastCtrlTs := rfl
@[simp] theorem emit_ctrlSeen (s : State) (e : Event) : (s.emit e).ctrlSeen = s.ctrlSeen := rfl
@[simp] theorem emit_enabled (s : State) (e : Event) : (s.emit e).enabled = s.enabled := rfl
@[simp] theorem emit_txCursor (s : State) (e : Event) : (s.emit e).txCursor = s.txCursor := rfl
@[simp] theorem emit_txPending (s : State) (e : Event) : (s.emit e).txPending = s.txPending := rfl
@[simp] theorem emit_inputs (s : State) (e : Event) : (s.emit e).inputs = s.inputs := rfl
@[simp] theorem emit_result (s : State) (e : Event) : (s.emit e).result = s.result := rfl
@[simp] theorem emit_events (s : State) (e : Event) : (s.emit e).events = s.events ++ [e] := rfl
@[simp] theorem emit_resets (s : State) (e : Event) : (s.emit e).resets = s.resets := rfl

/-! ## commit -/

@[simp] theorem commit_cfg (s : State) (len : Len) : (s.commit len).cfg = s.cfg := rfl
@[simp] theorem commit_buf0 (s : State) (len : Len) : (s.commit len).buf0 = s.buf0 := rfl
@[simp] theorem commit_buf1 (s : State) (len : Len) : (s.commit len).buf1 = s.buf1 := rfl
@[simp] theorem commit_txbuf (s : State) (len : Len) : (s.commit len).txbuf = s.txbuf := rfl
@[simp] theorem commit_activeSel (s : State) (len : Len) : (s.commit len).activeSel = 1 - s.activeSel := rfl
@[simp] theorem commit_activeSize (s : State) (len : Len) : (s.commit len).activeSize = len := rfl
@[simp] theorem commit_peer (s : State) (len : Len) : (s.commit len).peer = s.peer := rfl
@[simp] theorem commit_peerValid (s : State) (len : Len) : (s.commit len).peerValid = s.peerValid := rfl
@[simp] theorem commit_startTs (s : State) (len : Len) : (s.commit len).startTs = s.startTs := rfl
@[simp] theorem commit_lastCtrlTs (s : State) (len : Len) : (s.commit len).lastCtrlTs = s.lastCtrlTs := rfl
@[simp] theorem commit_ctrlSeen (s : State) (len : Len) : (s.commit len).ctrlSeen = s.ctrlSeen := rfl
@[simp] theorem commit_enabled (s : State) (len : Len) : (s.commit len).enabled = s.enabled := rfl
@[simp] theorem commit_txCursor (s : State) (len : Len) : (s.commit len).txCursor = s.txCursor := rfl
@[simp] theorem commit_txPending (s : State) (len : Len) : (s.commit len).txPending = s.txPending := rfl
@[simp] theorem commit_inputs (s : State) (len : Len) : (s.commit len).inputs = s.inputs := rfl
@[simp] theorem commit_result (s : State) (len : Len) : (s.commit len).result = s.result := rfl
@[simp] theorem commit_events (s : State) (len : Len) : (s.commit len).events = s.events := rfl
@[simp] theorem commit_resets (s : State) (len : Len) : (s.commit len).resets = s.resets := rfl

/-! ## idle -/

@[simp] theorem idle_cfg (s : State) : (s.idle).cfg = s.cfg := rfl
@[simp] theorem idle_buf0 (s : State) : (s.idle).buf0 = s.buf0 := rfl
@[simp] theorem idle_buf1 (s : State) : (s.idle).buf1 = s.buf1 := rfl
@[simp] theorem idle_txbuf (s : State) : (s.idle).txbuf = s.txbuf := rfl
@[simp] theorem idle_activeSel (s : State) : (s.idle).activeSel = s.activeSel := rfl
@[simp] theorem idle_activeSize (s : State) : (s.idle).activeSize = s.activeSize := rfl
@[simp] theorem idle_peer (s : State) : (s.idle).peer = s.peer := rfl
@[simp] theorem idle_peerValid (s : State) : (s.idle).peerValid = s.peerValid := rfl
@[simp] theorem idle_startTs (s : State) : (s.idle).startTs = s.startTs := rfl
@[simp] theorem idle_lastCtrlTs (s : State) : (s.idle).lastCtrlTs = s.lastCtrlTs := rfl
@[simp] theorem idle_ctrlSeen (s : State) : (s.idle).ctrlSeen = s.ctrlSeen := rfl
@[simp] theorem idle_enabled (s : State) : (s.idle).enabled = s.enabled := rfl
@[simp] theorem idle_txCursor (s : State) : (s.idle).txCursor = s.txCursor := rfl
@[simp] theorem idle_txPending (s : State) : (s.idle).txPending = s.txPending := rfl
@[simp] theorem idle_inputs (s : State) : (s.idle).inputs = s.inputs := rfl
@[simp] theorem idle_result (s : State) : (s.idle).result = none := rfl
@[simp] theorem idle_events (s : State) : (s.idle).events = s.events := rfl
@[simp] theorem idle_resets (s : State) : (s.idle).resets = s.resets := rfl

/-! ## acceptFrame -/

@[simp] theorem acceptFrame_cfg (s : State) (len : Len) (q : Peer) : (acceptFrame len q s).cfg = s.cfg := rfl
@[simp] theorem acceptFrame_buf0 (s : State) (len : Len) (q : Peer) : (acceptFrame len q s).buf0 = s.buf0 := rfl
@[simp] theorem acceptFrame_buf1 (s : State) (len : Len) (q : Peer) : (acceptFrame len q s).buf1 = s.buf1 := rfl
@[simp] theorem acceptFrame_txbuf (s : State) (len : Len) (q : Peer) : (acceptFrame len q s).txbuf = s.txbuf := rfl
@[simp] theorem acceptFrame_activeSel (s : State) (len : Len) (q : Peer) : (acceptFrame len q s).activeSel = 1 - s.activeSel := rfl
@[simp] theorem acceptFrame_activeSize (s : State) (len : Len) (q : Peer) : (acceptFrame len q s).activeSize = len := rfl
@[simp] theorem acceptFrame_peer (s : State) (len : Len) (q : Peer) : (acceptFrame len q s).peer = s.cfg.clipPeer q := rfl
@[simp] theorem acceptFrame_peerValid (s : State) (len : Len) (q : Peer) : (acceptFrame len q s).peerValid = true := rfl
@[simp] theorem acceptFrame_startTs (s : State) (len : Len) (q : Peer) : (acceptFrame len q s).startTs = s.startTs := rfl
@[simp] theorem acceptFrame_lastCtrlTs (s : State) (len : Len) (q : Peer) : (acceptFrame len q s).lastCtrlTs = s.lastCtrlTs := rfl
@[simp] theorem acceptFrame_ctrlSeen (s : State) (len : Len) (q : Peer) : (acceptFrame len q s).ctrlSeen = s.ctrlSeen := rfl
@[simp] theorem acceptFrame_enabled (s : State) (len : Len) (q : Peer) : (acceptFrame len q s).enabled = s.enabled := rfl
@[simp] theorem acceptFrame_txCursor (s : State) (len : Len) (q : Peer) : (acceptFrame len q s).txCursor = s.txCursor := rfl
@[simp] theorem acceptFrame_txPending (s : State) (len : Len) (q : Peer) : (acceptFrame len q s).txPending = s.txPending := rfl
@[simp] theorem acceptFrame_inputs (s : State) (len : Len) (q : Peer) : (acceptFrame len q s).inputs = s.inputs := rfl
@[simp] theorem acceptFrame_result (s : State) (len : Len) (q : Peer) : (acceptFrame len q s).result = s.result := rfl
@[simp] theorem acceptFrame_events (s : State) (len : Len) (q : Peer) : (acceptFrame len q s).events = s.events := rfl
@[simp] theorem acceptFrame_resets (s : State) (len : Len) (q : Peer) : (acceptFrame len q s).resets = s.resets := rfl

/-! ## acceptControl -/

@[simp] theorem acceptControl_cfg (s : State) (now : Time) : (acceptControl now s).cfg = s.cfg := rfl
@[simp] theorem acceptControl_buf0 (s : State) (now : Time) : (acceptControl now s).buf0 = s.buf0 := rfl
@[simp] theorem acceptControl_buf1 (s : State) (now : Time) : (acceptControl now s).buf1 = s.buf1 := rfl
@[simp] theorem acceptControl_txbuf (s : State) (now : Time) : (acceptControl now s).txbuf = s.txbuf := rfl
@[simp] theorem acceptControl_activeSel (s : State) (now : Time) : (acceptControl now s).activeSel = s.activeSel := rfl
@[simp] theorem acceptControl_activeSize (s : State) (now : Time) : (acceptControl now s).activeSize = s.activeSize := rfl
@[simp] theorem acceptControl_peer (s : State) (now : Time) : (acceptControl now s).peer = s.peer := rfl
@[simp] theorem acceptControl_peerValid (s : State) (now : Time) : (acceptControl now s).peerValid = s.peerValid := rfl
@[simp] theorem acceptControl_startTs (s : State) (now : Time) : (acceptControl now s).startTs = s.startTs := rfl
@[simp] theorem acceptControl_lastCtrlTs (s : State) (now : Time) : (acceptControl now s).lastCtrlTs = s.cfg.clipTime now := rfl
@[simp] theorem acceptControl_ctrlSeen (s : State) (now : Time) : (acceptControl now s).ctrlSeen = true := rfl
@[simp] theorem acceptControl_enabled (s : State) (now : Time) : (acceptControl now s).enabled = s.enabled := rfl
@[simp] theorem acceptControl_txCursor (s : State) (now : Time) : (acceptControl now s).txCursor = s.txCursor := rfl
@[simp] theorem acceptControl_txPending (s : State) (now : Time) : (acceptControl now s).txPending = s.txPending := rfl
@[simp] theorem acceptControl_inputs (s : State) (now : Time) : (acceptControl now s).inputs = s.inputs := rfl
@[simp] theorem acceptControl_result (s : State) (now : Time) : (acceptControl now s).result = s.result := rfl
@[simp] theorem acceptControl_events (s : State) (now : Time) : (acceptControl now s).events = s.events ++ [Event.ctrlStrobe] := rfl
@[simp] theorem acceptControl_resets (s : State) (now : Time) : (acceptControl now s).resets = s.resets := rfl

/-! ## endPoll -/

@[simp] theorem endPoll_cfg (s : State) (st : Status) (c : Bool) (n : Len) (now : Time) : (endPoll st c n now s).cfg = s.cfg := rfl
@[simp] theorem endPoll_buf0 (s : State) (st : Status) (c : Bool) (n : Len) (now : Time) : (endPoll st c n now s).buf0 = s.buf0 := rfl
@[simp] theorem endPoll_buf1 (s : State) (st : Status) (c : Bool) (n : Len) (now : Time) : (endPoll st c n now s).buf1 = s.buf1 := rfl
@[simp] theorem endPoll_txbuf (s : State) (st : Status) (c : Bool) (n : Len) (now : Time) : (endPoll st c n now s).txbuf = s.txbuf := rfl
@[simp] theorem endPoll_activeSel (s : State) (st : Status) (c : Bool) (n : Len) (now : Time) : (endPoll st c n now s).activeSel = s.activeSel := rfl
@[simp] theorem endPoll_activeSize (s : State) (st : Status) (c : Bool) (n : Len) (now : Time) : (endPoll st c n now s).activeSize = s.activeSize := rfl
@[simp] theorem endPoll_peer (s : State) (st : Status) (c : Bool) (n : Len) (now : Time) : (endPoll st c n now s).peer = s.peer := rfl
@[simp] theorem endPoll_peerValid (s : State) (st : Status) (c : Bool) (n : Len) (now : Time) : (endPoll st c n now s).peerValid = s.peerValid := rfl
@[simp] theorem endPoll_startTs (s : State) (st : Status) (c : Bool) (n : Len) (now : Time) : (endPoll st c n now s).startTs = s.startTs := rfl
@[simp] theorem endPoll_lastCtrlTs (s : State) (st : Status) (c : Bool) (n : Len) (now : Time) : (endPoll st c n now s).lastCtrlTs = s.lastCtrlTs := rfl
@[simp] theorem endPoll_ctrlSeen (s : State) (st : Status) (c : Bool) (n : Len) (now : Time) : (endPoll st c n now s).ctrlSeen = s.ctrlSeen := rfl
@[simp] theorem endPoll_enabled (s : State) (st : Status) (c : Bool) (n : Len) (now : Time) : (endPoll st c n now s).enabled = s.wdEnabled now := rfl
@[simp] theorem endPoll_txCursor (s : State) (st : Status) (c : Bool) (n : Len) (now : Time) : (endPoll st c n now s).txCursor = s.txCursor := rfl
@[simp] theorem endPoll_txPending (s : State) (st : Status) (c : Bool) (n : Len) (now : Time) : (endPoll st c n now s).txPending = s.txPending := rfl
@[simp] theorem endPoll_inputs (s : State) (st : Status) (c : Bool) (n : Len) (now : Time) : (endPoll st c n now s).inputs = s.inputs := rfl
@[simp] theorem endPoll_result (s : State) (st : Status) (c : Bool) (n : Len) (now : Time) : (endPoll st c n now s).result = some ⟨st, pollResA c (s.wdEnabled now), n⟩ := rfl
@[simp] theorem endPoll_events (s : State) (st : Status) (c : Bool) (n : Len) (now : Time) : (endPoll st c n now s).events = s.events := rfl
@[simp] theorem endPoll_resets (s : State) (st : Status) (c : Bool) (n : Len) (now : Time) : (endPoll st c n now s).resets = s.resets := rfl

/-! ## setMem -/

@[simp] theorem setMem_cfg (s : State) (k : Space) (m : Memory) : (s.setMem k m).cfg = s.cfg := by cases k <;> rfl
@[simp] theorem setMem_activeSel (s : State) (k : Space) (m : Memory) : (s.setMem k m).activeSel = s.activeSel := by cases k <;> rfl
@[simp] theorem setMem_activeSize (s : State) (k : Space) (m : Memory) : (s.setMem k m).activeSize = s.activeSize := by cases k <;> rfl
@[simp] theorem setMem_peer (s : State) (k : Space) (m : Memory) : (s.setMem k m).peer = s.peer := by cases k <;> rfl
@[simp] theorem setMem_peerValid (s : State) (k : Space) (m : Memory) : (s.setMem k m).peerValid = s.peerValid := by cases k <;> rfl
@[simp] theorem setMem_startTs (s : State) (k : Space) (m : Memory) : (s.setMem k m).startTs = s.startTs := by cases k <;> rfl
@[simp] theorem setMem_lastCtrlTs (s : State) (k : Space) (m : Memory) : (s.setMem k m).lastCtrlTs = s.lastCtrlTs := by cases k <;> rfl
@[simp] theorem setMem_ctrlSeen (s : State) (k : Space) (m : Memory) : (s.setMem k m).ctrlSeen = s.ctrlSeen := by cases k <;> rfl
@[simp] theorem setMem_enabled (s : State) (k : Space) (m : Memory) : (s.setMem k m).enabled = s.enabled := by cases k <;> rfl
@[simp] theorem setMem_txCursor (s : State) (k : Space) (m : Memory) : (s.setMem k m).txCursor = s.txCursor := by cases k <;> rfl
@[simp] theorem setMem_txPending (s : State) (k : Space) (m : Memory) : (s.setMem k m).txPending = s.txPending := by cases k <;> rfl
@[simp] theorem setMem_inputs (s : State) (k : Space) (m : Memory) : (s.setMem k m).inputs = s.inputs := by cases k <;> rfl
@[simp] theorem setMem_result (s : State) (k : Space) (m : Memory) : (s.setMem k m).result = s.result := by cases k <;> rfl
@[simp] theorem setMem_events (s : State) (k : Space) (m : Memory) : (s.setMem k m).events = s.events := by cases k <;> rfl
@[simp] theorem setMem_resets (s : State) (k : Space) (m : Memory) : (s.setMem k m).resets = s.resets := by cases k <;> rfl

/-- R55, R57: replacing one space leaves the others alone. -/
@[simp] theorem setMem_mem (s : State) (k k' : Space) (m : Memory) :
    (s.setMem k m).mem k' = if k' = k then m else s.mem k' := by
  cases k <;> cases k' <;> rfl

/-! ## Quantities of a parameter's width (R6) -/

theorem clipTime_lt (cfg : Config) (t : Time) : cfg.clipTime t < 2 ^ cfg.timeW := Nat.mod_lt _ (Nat.two_pow_pos _)

theorem clipPeer_lt (cfg : Config) (q : Peer) : cfg.clipPeer q < 2 ^ cfg.peerW := Nat.mod_lt _ (Nat.two_pow_pos _)

/-- A number that fits its port is taken as it is. -/
theorem clipTime_of_lt {cfg : Config} {t : Time} (h : t < 2 ^ cfg.timeW) : cfg.clipTime t = t := Nat.mod_eq_of_lt h

theorem clipPeer_of_lt {cfg : Config} {q : Peer} (h : q < 2 ^ cfg.peerW) : cfg.clipPeer q = q := Nat.mod_eq_of_lt h

/-- R15: the modular difference is the remainder of the difference of the two integers. -/
theorem timeSince_eq (cfg : Config) (now earlier : Time) :
    (timeSince cfg now earlier : Int) = ((now : Int) - earlier) % 2 ^ cfg.timeW := by
  have hlt := clipTime_lt cfg earlier
  have hsub : ((cfg.clipTime now + 2 ^ cfg.timeW - cfg.clipTime earlier : Nat) : Int) =
      cfg.clipTime now - cfg.clipTime earlier + 2 ^ cfg.timeW := by
    rw [Nat.cast_sub (Nat.le_trans (Nat.le_of_lt hlt) (Nat.le_add_left _ _))]
    push_cast
    ring
  rw [timeSince, Int.natCast_mod, hsub]
  push_cast [Config.clipTime]
  rw [Int.add_emod_right, ← Int.sub_emod]

/-! ## The watchdog function depends on three registers and the width of time only (R156) -/

theorem wdEnabled_congr {s t : State} (now : Time) (h0 : t.cfg = s.cfg) (h1 : t.startTs = s.startTs)
    (h2 : t.ctrlSeen = s.ctrlSeen) (h3 : t.lastCtrlTs = s.lastCtrlTs) : t.wdEnabled now = s.wdEnabled now := by
  unfold State.wdEnabled State.uptime State.ctrlAge
  rw [h0, h1, h2, h3]

/-! ## The reset table (R220) -/

@[simp] theorem afterReset_cfg (cfg : Config) (n : Nat) (t : Time) (ins : List Ports) (evs : List Event) :
    (State.afterReset cfg n t ins evs).cfg = cfg := rfl
@[simp] theorem afterReset_buf0 (cfg : Config) (n : Nat) (t : Time) (ins : List Ports) (evs : List Event) :
    (State.afterReset cfg n t ins evs).buf0 = State.freshMemory n .buf0 := rfl
@[simp] theorem afterReset_buf1 (cfg : Config) (n : Nat) (t : Time) (ins : List Ports) (evs : List Event) :
    (State.afterReset cfg n t ins evs).buf1 = State.freshMemory n .buf1 := rfl
@[simp] theorem afterReset_txbuf (cfg : Config) (n : Nat) (t : Time) (ins : List Ports) (evs : List Event) :
    (State.afterReset cfg n t ins evs).txbuf = State.freshMemory n .txbuf := rfl
@[simp] theorem afterReset_activeSel (cfg : Config) (n : Nat) (t : Time) (ins : List Ports) (evs : List Event) :
    (State.afterReset cfg n t ins evs).activeSel = 0 := rfl
@[simp] theorem afterReset_activeSize (cfg : Config) (n : Nat) (t : Time) (ins : List Ports) (evs : List Event) :
    (State.afterReset cfg n t ins evs).activeSize = 0 := rfl
@[simp] theorem afterReset_peer (cfg : Config) (n : Nat) (t : Time) (ins : List Ports) (evs : List Event) :
    (State.afterReset cfg n t ins evs).peer = cfg.clipPeer (Config.resetPeer n) := rfl
@[simp] theorem afterReset_peerValid (cfg : Config) (n : Nat) (t : Time) (ins : List Ports) (evs : List Event) :
    (State.afterReset cfg n t ins evs).peerValid = false := rfl
@[simp] theorem afterReset_startTs (cfg : Config) (n : Nat) (t : Time) (ins : List Ports) (evs : List Event) :
    (State.afterReset cfg n t ins evs).startTs = cfg.clipTime t := rfl
@[simp] theorem afterReset_lastCtrlTs (cfg : Config) (n : Nat) (t : Time) (ins : List Ports) (evs : List Event) :
    (State.afterReset cfg n t ins evs).lastCtrlTs = cfg.clipTime (Config.resetLastCtrl n) := rfl
@[simp] theorem afterReset_ctrlSeen (cfg : Config) (n : Nat) (t : Time) (ins : List Ports) (evs : List Event) :
    (State.afterReset cfg n t ins evs).ctrlSeen = false := rfl
@[simp] theorem afterReset_enabled (cfg : Config) (n : Nat) (t : Time) (ins : List Ports) (evs : List Event) :
    (State.afterReset cfg n t ins evs).enabled = false := rfl
@[simp] theorem afterReset_txCursor (cfg : Config) (n : Nat) (t : Time) (ins : List Ports) (evs : List Event) :
    (State.afterReset cfg n t ins evs).txCursor = 6 := rfl
@[simp] theorem afterReset_txPending (cfg : Config) (n : Nat) (t : Time) (ins : List Ports) (evs : List Event) :
    (State.afterReset cfg n t ins evs).txPending = false := rfl
@[simp] theorem afterReset_inputs (cfg : Config) (n : Nat) (t : Time) (ins : List Ports) (evs : List Event) :
    (State.afterReset cfg n t ins evs).inputs = ins := rfl
@[simp] theorem afterReset_result (cfg : Config) (n : Nat) (t : Time) (ins : List Ports) (evs : List Event) :
    (State.afterReset cfg n t ins evs).result = none := rfl
@[simp] theorem afterReset_events (cfg : Config) (n : Nat) (t : Time) (ins : List Ports) (evs : List Event) :
    (State.afterReset cfg n t ins evs).events = evs := rfl
@[simp] theorem afterReset_resets (cfg : Config) (n : Nat) (t : Time) (ins : List Ports) (evs : List Event) :
    (State.afterReset cfg n t ins evs).resets = n := rfl

end Sys2Proof.Machine
end

