-- ==== Sys2Proof/Laws/Codec.lean ====
section
/-! SUPPORT. What the shared operations can do, said once each: `access`, the slots, `frameOk` (R111), `encodeFrame`
(R116), `flush` (R176) and the guarded append (R165, R166). -/

namespace Sys2Proof.Machine

open Sys2Proof

/-! ## `access` -/

@[simp] theorem access_some (s : State) : access (some s) = .next s := rfl

@[simp] theorem access_eq_next {o : Option State} {t : State} : access o = .next t ↔ o = some t := by
  cases o <;> simp [access]

@[simp] theorem access_ne_refused {o : Option State} {r : Refusal} : access o ≠ .refused r := by
  cases o <;> simp [access]

theorem access_eq_fault {o : Option State} {r : Fault} : access o = .fault r ↔ o = none ∧ r = .noSuchAddress := by
  cases o <;> simp [access, eq_comm]

/-! ## The two slots (R24) -/

theorem bit_cases (k : BitVec 1) : k = 0 ∨ k = 1 := by revert k; decide

theorem slotSpace_toggle_ne (k : BitVec 1) : slotSpace (1 - k) ≠ slotSpace k := by revert k; decide

theorem slotSpace_ne_txbuf (k : BitVec 1) : slotSpace k ≠ .txbuf := by revert k; decide

@[simp] theorem toggle_toggle (k : BitVec 1) : 1 - (1 - k) = k := by revert k; decide

/-- A property of both packet buffers holds of whichever a slot index selects. -/
theorem mem_slot {P : Memory → Prop} {s : State} (h0 : P s.buf0) (h1 : P s.buf1) (k : BitVec 1) :
    P (s.mem (slotSpace k)) := by
  obtain rfl | rfl := bit_cases k
  · exact h0
  · exact h1

theorem act_wf {s : State} (h0 : s.buf0.wf) (h1 : s.buf1.wf) : s.act.wf := mem_slot h0 h1 _

theorem rxb_wf {s : State} (h0 : s.buf0.wf) (h1 : s.buf1.wf) : s.rxb.wf := mem_slot h0 h1 _

/-- The active slot depends on the two buffers and the select bit only. -/
theorem act_congr {s t : State} (h0 : t.buf0 = s.buf0) (h1 : t.buf1 = s.buf1) (hk : t.activeSel = s.activeSel) :
    t.act = s.act := by
  unfold State.act State.activeSpace
  rw [hk]
  obtain h | h := bit_cases s.activeSel <;> rw [h]
  · exact h0
  · exact h1

/-- So does the receive slot. -/
theorem rxb_congr {s t : State} (h0 : t.buf0 = s.buf0) (h1 : t.buf1 = s.buf1) (hk : t.activeSel = s.activeSel) :
    t.rxb = s.rxb := by
  unfold State.rxb State.receiveSpace
  rw [hk]
  obtain h | h := bit_cases s.activeSel <;> rw [h]
  · exact h1
  · exact h0

/-- R35 (c), R51: a store into the receive slot leaves the active slot alone. -/
theorem setMem_receive_act (s : State) (m : Memory) : (s.setMem s.receiveSpace m).act = s.act := by
  unfold State.act State.activeSpace State.receiveSpace
  rw [setMem_activeSel, setMem_mem, if_neg (slotSpace_toggle_ne s.activeSel).symm]

theorem setMem_receive_rxb (s : State) (m : Memory) : (s.setMem s.receiveSpace m).rxb = m := by
  unfold State.rxb State.receiveSpace
  rw [setMem_activeSel, setMem_mem, if_pos rfl]

theorem setMem_receive_txbuf (s : State) (m : Memory) : (s.setMem s.receiveSpace m).txbuf = s.txbuf := by
  have h := setMem_mem s s.receiveSpace .txbuf m
  rwa [if_neg (show Space.txbuf ≠ s.receiveSpace from (slotSpace_ne_txbuf _).symm)] at h

/-- R142: the commit makes the receive slot the active one. -/
@[simp] theorem commit_act (s : State) (len : Len) : (s.commit len).act = s.rxb := rfl

@[simp] theorem commit_rxb (s : State) (len : Len) : (s.commit len).rxb = s.act := by
  unfold State.rxb State.act State.receiveSpace State.activeSpace
  rw [commit_activeSel, toggle_toggle]; rfl

@[simp] theorem acceptFrame_act (s : State) (len : Len) (q : Peer) : (acceptFrame len q s).act = s.rxb := rfl

@[simp] theorem acceptControl_act (s : State) (now : Time) : (acceptControl now s).act = s.act := rfl

/-! ## `frameOk` (R111) -/

theorem lenOutOfRange_iff (len : Len) : lenOutOfRange len = true ↔ 256 < len.toNat := by simp [lenOutOfRange]

theorem frameOk_short (cfg : Config) (m : Memory) (len : Len) (h : len.toNat < cfg.minFrameLen.toNat ∨ 256 < len.toNat) :
    frameOk cfg m len = some false := by
  unfold frameOk
  rw [if_pos]
  simp only [Bool.or_eq_true, decide_eq_true_eq, lenOutOfRange_iff]
  exact h

/-- The acceptance test over the bytes of a frame in memory. -/
theorem frameOk_of_bytes (cfg : Config) {m : Memory} {len : Len} {bs : List Byte} {hi lo version : Byte}
    (h2 : 2 ≤ len.toNat) (hmin : cfg.minFrameLen.toNat ≤ len.toNat) (h256 : len.toNat ≤ 256) (hbs : m.readBytes 0 len.toNat = some bs)
    (hhi : bs[len.toNat - 2]? = some hi) (hlo : bs[len.toNat - 1]? = some lo) (hv : bs[1]? = some version) :
    frameOk cfg m len = some
      (decide (crc16 cfg.crcTable (bs.take (len.toNat - 2)) = beHalf hi lo) && decide (version = cfg.protocolVersion)) := by
  obtain ⟨hl, hi'⟩ := (readBytes_eq_some_iff _ _ _ _).mp hbs
  have hget : ∀ i, i < len.toNat → m.read i = bs[i]? := fun i h => by simpa using hi' i h
  have hcov : m.readBytes 0 (len.toNat - 2) = some (bs.take (len.toNat - 2)) := by
    refine (readBytes_eq_some_iff _ _ _ _).mpr ⟨by simp [hl], fun i h => ?_⟩
    rw [Nat.zero_add, hget i (by omega), List.getElem?_take, if_pos h]
  unfold frameOk
  rw [if_neg (by simp only [Bool.or_eq_true, decide_eq_true_eq, lenOutOfRange_iff]; omega), if_neg (Nat.not_lt.mpr h2),
    hcov, Option.bind_some, hget _ (by omega), hhi, Option.bind_some, hget _ (by omega), hlo, Option.bind_some,
    hget _ (by omega), hv]
  rfl

theorem frameOk_of_wf {cfg : Config} (hcfg : cfg.legal) {m : Memory} (hm : m.wf) (len : Len) :
    ∃ b, frameOk cfg m len = some b := by
  have h5 := hcfg.1
  by_cases h : len.toNat < cfg.minFrameLen.toNat ∨ 256 < len.toNat
  · exact ⟨false, frameOk_short cfg m len h⟩
  · obtain ⟨bs, hbs⟩ := readBytes_of_wf hm (a := 0) (n := len.toNat) (by omega)
    have hl := readBytes_length hbs
    exact ⟨_, frameOk_of_bytes cfg (by omega) (by omega) (by omega) hbs (List.getElem?_eq_getElem (by omega))
      (List.getElem?_eq_getElem (by omega)) (List.getElem?_eq_getElem (by omega))⟩

theorem frameOk_true_range {cfg : Config} {m : Memory} {len : Len} (h : frameOk cfg m len = some true) :
    cfg.minFrameLen.toNat ≤ len.toNat ∧ len.toNat ≤ 256 := by
  by_contra hc
  rw [frameOk_short cfg m len (by omega)] at h
  cases h

/-! ## `encodeFrame` (R116) -/

@[simp] theorem feedbackHeader_length (now : Time) (s : State) : (feedbackHeader now s).length = 6 := rfl

@[simp] theorem be16_length (v : Half) : (be16 v).length = 2 := rfl

/-- Everything `encode(now)` does, for a cursor at or above the header: it changes `TXBUF` alone; the frame it leaves is
the header, the bundles that were there and the checksum of both. -/
theorem encodeFrame_spec {now : Time} {s t : State} (h : encodeFrame now s = some t) (hc : 6 ≤ s.txCursor.toNat) :
    ∃ m bundles, t = { s with txbuf := m } ∧ m.map Prod.fst = s.txbuf.map Prod.fst ∧
      s.txbuf.readBytes 6 (s.txCursor.toNat - 6) = some bundles ∧
      m.readBytes 0 (s.txCursor.toNat + 2) = some (feedbackHeader now s ++ bundles ++
        be16 (crc16 s.cfg.crcTable (feedbackHeader now s ++ bundles))) ∧
      ∀ a, s.txCursor.toNat + 2 ≤ a → m.read a = s.txbuf.read a := by
  simp only [encodeFrame, Option.bind_eq_some_iff, Option.map_eq_some_iff] at h
  obtain ⟨m₁, h₁, covered, hcov, m₂, h₂, rfl⟩ := h
  have hread₁ := read_writeBytes h₁
  rw [feedbackHeader_length] at hread₁
  have hhead : m₁.readBytes 0 6 = some (feedbackHeader now s) := readBytes_writeBytes_self h₁
  have hsplit := readBytes_add m₁ 0 6 (s.txCursor.toNat - 6)
  rw [Nat.zero_add, Nat.add_sub_cancel' hc, hcov, hhead, Option.bind_some] at hsplit
  obtain ⟨bundles, hb, hcat⟩ := Option.map_eq_some_iff.mp hsplit.symm
  have hb' : s.txbuf.readBytes 6 (s.txCursor.toNat - 6) = some bundles := by
    rw [← hb]
    exact (readBytes_congr fun i _ => by rw [hread₁, if_neg (by omega)]).symm
  subst hcat
  have hread₂ := read_writeBytes h₂
  rw [be16_length] at hread₂
  refine ⟨m₂, bundles, rfl, (writeBytes_keys h₂).trans (writeBytes_keys h₁), hb', ?_, fun a ha => ?_⟩
  · have hlow : m₂.readBytes 0 s.txCursor.toNat = some (feedbackHeader now s ++ bundles) := by
      rw [← hcov]
      exact readBytes_congr fun i hi => by rw [hread₂, if_neg (by omega)]
    have htail := readBytes_writeBytes_self h₂
    rw [be16_length] at htail
    rw [readBytes_add, hlow, Option.bind_some, Nat.zero_add, htail]
    rfl
  · rw [hread₂, if_neg (by omega), hread₁, if_neg (by omega)]

theorem encodeFrame_of_wf (now : Time) {s : State} (hm : s.txbuf.wf) (hc : s.txCursor.toNat ≤ 254) :
    ∃ t, encodeFrame now s = some t := by
  obtain ⟨m₁, h₁⟩ := writeBytes_of_wf hm (a := 0) (bs := feedbackHeader now s) (by simp)
  obtain ⟨cov, h₂⟩ := readBytes_of_wf (writeBytes_wf h₁ hm) (a := 0) (n := s.txCursor.toNat) (by omega)
  obtain ⟨m₃, h₃⟩ := writeBytes_of_wf (writeBytes_wf h₁ hm) (a := s.txCursor.toNat)
    (bs := be16 (crc16 s.cfg.crcTable cov)) (by rw [be16_length]; omega)
  exact ⟨{ s with txbuf := m₃ }, by simp [encodeFrame, h₁, h₂, h₃]⟩

/-! ## `flush` (R176) -/

/-- The state a flush leaves, with `m` in `TXBUF` and `bytes` sent. -/
def flushed (s : State) (m : Memory) (bytes : List Byte) : State :=
  { s with txbuf := m, txCursor := 6, txPending := false, events := s.events ++ [.txFrame s.peer bytes] }

theorem flush_no_peer (now : Time) {s : State} (h : s.peerValid = false) : flush now s = some (.noPeer, s) := by
  simp [flush, h]

/-- Everything a flush with a peer does. -/
theorem flush_spec {now : Time} {s : State} {r : Flushed × State} (h : flush now s = some r) (hp : s.peerValid = true)
    (hc : 6 ≤ s.txCursor.toNat) :
    ∃ m bundles, m.map Prod.fst = s.txbuf.map Prod.fst ∧
      s.txbuf.readBytes 6 (s.txCursor.toNat - 6) = some bundles ∧
      m.readBytes 0 (s.txCursor.toNat + 2) = some (feedbackHeader now s ++ bundles ++
        be16 (crc16 s.cfg.crcTable (feedbackHeader now s ++ bundles))) ∧
      (∀ a, s.txCursor.toNat + 2 ≤ a → m.read a = s.txbuf.read a) ∧
      r = (.sent (s.txCursor + 2), flushed s m (feedbackHeader now s ++ bundles ++
        be16 (crc16 s.cfg.crcTable (feedbackHeader now s ++ bundles)))) := by
  rw [flush, if_pos hp, Option.bind_eq_some_iff] at h
  obtain ⟨t, ht, h⟩ := h
  obtain ⟨m, bundles, rfl, hk, hb, hread, hrest⟩ := encodeFrame_spec ht hc
  rw [Option.map_eq_some_iff] at h
  obtain ⟨bytes, hbytes, rfl⟩ := h
  have : bytes = _ := Option.some.inj (hbytes.symm.trans hread)
  subst this
  exact ⟨m, bundles, hk, hb, hread, hrest, rfl⟩

theorem flush_of_wf (now : Time) {s : State} (hm : s.txbuf.wf) (hlow : 6 ≤ s.txCursor.toNat)
    (hc : s.txCursor.toNat ≤ 254) : ∃ r, flush now s = some r := by
  by_cases hp : s.peerValid = true
  · obtain ⟨t, ht⟩ := encodeFrame_of_wf now hm hc
    obtain ⟨m, bundles, rfl, -, -, hread, -⟩ := encodeFrame_spec ht hlow
    rw [flush, if_pos hp, ht, Option.bind_some, hread]
    exact ⟨_, rfl⟩
  · exact ⟨_, flush_no_peer now (by simpa using hp)⟩

/-! ## The guarded append (R165, R166) -/

/-- The state an accepted append leaves. -/
def appended (s : State) (m : Memory) (n : Nat) : State :=
  { s with
    txbuf := m, txCursor := s.txCursor + BitVec.ofNat 9 n
    result := some ⟨.ok, 0, s.txCursor + BitVec.ofNat 9 n⟩ }

theorem appendBundle_dropped {hwm : Nat} {bytes : List Byte} {s : State}
    (h : s.txPending = true ∨ hwm ≤ s.txCursor.toNat) :
    appendBundle hwm bytes s = .next (s.answer .dropped 0 s.txCursor) := by
  rw [appendBundle, if_pos (by simpa using h)]

theorem appendBundle_accepted {hwm : Nat} {bytes : List Byte} {s : State} {m : Memory} (hp : s.txPending = false)
    (hc : s.txCursor.toNat < hwm) (hm : s.txbuf.writeBytes s.txCursor.toNat bytes = some m) :
    appendBundle hwm bytes s = .next (appended s m bytes.length) := by
  rw [appendBundle, if_neg (by simp [hp]; omega), hm]
  rfl

/-- Everything an append can do when it answers a next state. -/
theorem appendBundle_cases {hwm : Nat} {bytes : List Byte} {s t : State} (h : appendBundle hwm bytes s = .next t) :
    ((s.txPending = true ∨ hwm ≤ s.txCursor.toNat) ∧ t = s.answer .dropped 0 s.txCursor) ∨
    (s.txPending = false ∧ s.txCursor.toNat < hwm ∧
      ∃ m, s.txbuf.writeBytes s.txCursor.toNat bytes = some m ∧ t = appended s m bytes.length) := by
  by_cases hg : s.txPending = true ∨ hwm ≤ s.txCursor.toNat
  · rw [appendBundle_dropped hg] at h
    exact .inl ⟨hg, (Host.Outcome.next.inj h).symm⟩
  · rw [not_or, Bool.not_eq_true, not_le] at hg
    rw [appendBundle, if_neg (by simp [hg.1]; omega), access_eq_next, Option.map_eq_some_iff] at h
    obtain ⟨m, hm, rfl⟩ := h
    exact .inr ⟨hg.1, hg.2, m, hm, rfl⟩

end Sys2Proof.Machine
end

