-- ==== Sys2Proof/Laws/Bundles.lean ====
section
/-! SUPPORT. The scan of R126: one turn of the loop, what a found bundle is, that the scan always ends with an answer,
and that its fuel never decides the answer. -/

namespace Sys2Proof.Machine

open Sys2Proof

/-- The loop test fails: the scan ends. -/
theorem locateFrom_end (m : Memory) (size : Nat) (id : Byte) (fuel cur : Nat) (h : ¬ cur + 2 < size) :
    locateFrom m size id fuel cur = some .notFound := by
  cases fuel with
  | zero => rfl
  | succ fuel => rw [locateFrom, if_neg h]

/-- A turn at a bundle with the identifier looked for (R126, R132). -/
theorem locateFrom_hit {m : Memory} {size : Nat} {id len : Byte} (fuel : Nat) {cur : Nat} (h : cur + 2 < size)
    (hl : m.read cur = some len) (hi : m.read (cur + 1) = some id) :
    locateFrom m size id (fuel + 1) cur =
      some (if len.toNat = 0 then .notFound else .found cur (len.toNat - 1)) := by
  rw [locateFrom, if_pos h, hl, Option.bind_some, hi, Option.bind_some, if_pos rfl]

/-- A turn at a bundle with another identifier (R126). -/
theorem locateFrom_skip {m : Memory} {size : Nat} {id other len : Byte} (fuel : Nat) {cur : Nat} (h : cur + 2 < size)
    (hl : m.read cur = some len) (hi : m.read (cur + 1) = some other) (hne : other ≠ id) :
    locateFrom m size id (fuel + 1) cur = locateFrom m size id fuel (cur + 1 + len.toNat) := by
  rw [locateFrom, if_pos h, hl, Option.bind_some, hi, Option.bind_some, if_neg hne]

/-- What a found bundle is: inside the frame, with the identifier, and with the length byte its size comes from. -/
theorem locateFrom_found {m : Memory} {size : Nat} {id : Byte} {fuel cur p n : Nat}
    (h : locateFrom m size id fuel cur = some (.found p n)) :
    cur ≤ p ∧ p + 2 < size ∧ m.read (p + 1) = some id ∧ ∃ len : Byte, m.read p = some len ∧ len.toNat = n + 1 := by
  induction fuel generalizing cur with
  | zero => simp [locateFrom] at h
  | succ fuel ih =>
    rw [locateFrom] at h
    split at h
    · next hlt =>
      rw [Option.bind_eq_some_iff] at h
      obtain ⟨len, hl, h⟩ := h
      rw [Option.bind_eq_some_iff] at h
      obtain ⟨other, hi, h⟩ := h
      split at h
      · next he =>
        subst he
        split at h
        · cases h
        · next hz =>
          simp only [Option.some.injEq, Located.found.injEq] at h
          obtain ⟨rfl, rfl⟩ := h
          exact ⟨Nat.le_refl _, hlt, hi, len, hl, by omega⟩
      · obtain ⟨h1, h2⟩ := ih h
        exact ⟨by omega, h2⟩
    · cases h

theorem locateFrom_of_wf {m : Memory} (hm : m.wf) {size : Nat} (hs : size ≤ 256) (id : Byte) (fuel cur : Nat) :
    ∃ l, locateFrom m size id fuel cur = some l := by
  induction fuel generalizing cur with
  | zero => exact ⟨_, rfl⟩
  | succ fuel ih =>
    by_cases h : cur + 2 < size
    · obtain ⟨len, hl⟩ := read_of_wf hm (a := cur) (by omega)
      obtain ⟨other, hi⟩ := read_of_wf hm (a := cur + 1) (by omega)
      by_cases he : other = id
      · subst he; exact ⟨_, locateFrom_hit fuel h hl hi⟩
      · rw [locateFrom_skip fuel h hl hi he]; exact ih _
    · exact ⟨_, locateFrom_end _ _ _ _ _ h⟩

/-- Fuel of at least `size - cur` is enough: more changes nothing. -/
theorem locateFrom_fuel (m : Memory) (size : Nat) (id : Byte) {fuel fuel' cur : Nat} (h : size - cur ≤ fuel)
    (h' : size - cur ≤ fuel') : locateFrom m size id fuel cur = locateFrom m size id fuel' cur := by
  induction fuel generalizing fuel' cur with
  | zero => rw [locateFrom_end _ _ _ _ _ (by omega), locateFrom_end _ _ _ _ _ (by omega)]
  | succ fuel ih =>
    by_cases hlt : cur + 2 < size
    · obtain ⟨k, rfl⟩ : ∃ k, fuel' = k + 1 := ⟨fuel' - 1, by omega⟩
      rw [locateFrom, locateFrom, if_pos hlt, if_pos hlt]
      cases hl : m.read cur with
      | none => rfl
      | some len =>
        cases hi : m.read (cur + 1) with
        | none => rfl
        | some other =>
          simp only [Option.bind_some]
          split
          · rfl
          · exact ih (by omega) (by omega)
    · rw [locateFrom_end _ _ _ _ _ hlt, locateFrom_end _ _ _ _ _ hlt]

theorem locate_of_wf {s : State} (hm : s.act.wf) (hs : s.activeSize.toNat ≤ 256) (id : Byte) :
    ∃ l, locate id s = some l := locateFrom_of_wf hm hs id _ _

end Sys2Proof.Machine
end

