-- ==== Sys2Proof/Laws/Decode.lean ====
section
/-! SUPPORT. Splitting a value into its bytes and putting it together again (R53), and the lengths and first bytes of the
outbound bundles (R74). -/

namespace Sys2Proof

/-- R111: `{hi, lo}` is the number `256 * hi + lo`. -/
theorem beHalf_toNat (hi lo : Byte) : (beHalf hi lo).toNat = 256 * hi.toNat + lo.toNat := by
  rw [beHalf, BitVec.toNat_append, ← Nat.shiftLeft_add_eq_or_of_lt lo.isLt, Nat.shiftLeft_eq]
  omega

theorem extract_byte_toNat {w : Nat} (v : BitVec w) (k : Nat) :
    (v.extractLsb' k 8).toNat = v.toNat / 2 ^ k % 256 := by
  rw [BitVec.extractLsb'_toNat, Nat.shiftRight_eq_div_pow]

@[simp] theorem beHalf_split (v : Half) : beHalf (v.extractLsb' 8 8) (v.extractLsb' 0 8) = v := by
  have := v.isLt
  apply BitVec.eq_of_toNat_eq
  rw [beHalf_toNat, extract_byte_toNat, extract_byte_toNat]
  omega

@[simp] theorem split_beHalf_hi (hi lo : Byte) : (beHalf hi lo).extractLsb' 8 8 = hi := by
  have := hi.isLt; have := lo.isLt
  apply BitVec.eq_of_toNat_eq
  rw [extract_byte_toNat, beHalf_toNat]
  omega

@[simp] theorem split_beHalf_lo (hi lo : Byte) : (beHalf hi lo).extractLsb' 0 8 = lo := by
  have := lo.isLt
  apply BitVec.eq_of_toNat_eq
  rw [extract_byte_toNat, beHalf_toNat]
  omega

theorem beWord_toNat (a b c d : Byte) :
    (beWord a b c d).toNat = 16777216 * a.toNat + 65536 * b.toNat + 256 * c.toNat + d.toNat := by
  have hc := c.isLt; have hd := d.isLt; have hb := b.isLt
  rw [beWord, BitVec.toNat_append, ← Nat.shiftLeft_add_eq_or_of_lt hd, BitVec.toNat_append,
    ← Nat.shiftLeft_add_eq_or_of_lt hc, BitVec.toNat_append, ← Nat.shiftLeft_add_eq_or_of_lt hb,
    Nat.shiftLeft_eq, Nat.shiftLeft_eq, Nat.shiftLeft_eq]
  omega

@[simp] theorem beWord_split (v : Word) : beWord (v.extractLsb' 24 8) (v.extractLsb' 16 8) (v.extractLsb' 8 8)
    (v.extractLsb' 0 8) = v := by
  have := v.isLt
  apply BitVec.eq_of_toNat_eq
  rw [beWord_toNat]
  simp only [extract_byte_toNat]
  omega

@[simp] theorem be32_beWord (a b c d : Byte) : be32 (beWord a b c d) = [a, b, c, d] := by
  have ha := a.isLt; have hb := b.isLt; have hc := c.isLt; have hd := d.isLt
  simp only [be32, List.cons.injEq, and_true]
  refine ⟨?_, ?_, ?_, ?_⟩ <;> apply BitVec.eq_of_toNat_eq <;> rw [extract_byte_toNat, beWord_toNat] <;> omega

/-- R53: the two bytes of a 16-bit value as numbers. -/
theorem be16_eq (v : Half) : be16 v = [BitVec.ofNat 8 (v.toNat / 256), BitVec.ofNat 8 v.toNat] := by
  have h : ∀ k, v.extractLsb' k 8 = BitVec.ofNat 8 (v.toNat / 2 ^ k) := fun k => by
    apply BitVec.eq_of_toNat_eq
    rw [BitVec.extractLsb'_toNat, BitVec.toNat_ofNat, Nat.shiftRight_eq_div_pow]
  simp [be16, h]

/-- R53: the four bytes of a 32-bit value as numbers. -/
theorem be32_eq (v : Word) : be32 v = [BitVec.ofNat 8 (v.toNat / 16777216), BitVec.ofNat 8 (v.toNat / 65536),
    BitVec.ofNat 8 (v.toNat / 256), BitVec.ofNat 8 v.toNat] := by
  have h : ∀ k, v.extractLsb' k 8 = BitVec.ofNat 8 (v.toNat / 2 ^ k) := fun k => by
    apply BitVec.eq_of_toNat_eq
    rw [BitVec.extractLsb'_toNat, BitVec.toNat_ofNat, Nat.shiftRight_eq_div_pow]
  simp [be32, h]

@[simp] theorem bundleBytesU8_length (id v : Byte) : (bundleBytesU8 id v).length = 3 := rfl
@[simp] theorem bundleBytesU16_length (id : Byte) (v : Half) : (bundleBytesU16 id v).length = 4 := rfl
@[simp] theorem bundleBytesI32_length (id : Byte) (v : Word) : (bundleBytesI32 id v).length = 6 := rfl

/-- R73: an inbound bundle occupies its length byte, its identifier and its payload. -/
@[simp] theorem bundle_bytes_length (b : Bundle) : b.bytes.length = b.payload.length + 2 := rfl

@[simp] theorem bundleRegion_nil : bundleRegion [] = [] := rfl

@[simp] theorem bundleRegion_cons (b : Bundle) (bs : List Bundle) :
    bundleRegion (b :: bs) = b.bytes ++ bundleRegion bs := rfl

/-- R73: the length byte of a well-formed bundle is its payload length plus one. -/
theorem bundle_length_byte {b : Bundle} (h : b.wellFormed = true) :
    (BitVec.ofNat 8 (b.payload.length + 1)).toNat = b.payload.length + 1 := by
  simp only [Bundle.wellFormed, decide_eq_true_eq] at h
  rw [BitVec.toNat_ofNat, Nat.mod_eq_of_lt (by omega)]

end Sys2Proof
end

