-- ==== Sys2Proof/Laws/PerInstr.lean ====
section
/-! SUPPORT. Statements about every row, one lemma per constructor. `EncodedSize`: a command is one presented sample (R88:
"All operations have the same length"), and the bytes of a wire bundle are as many as its first byte says (R73: "a
bundle occupies `L + 1` bytes"). -/

namespace Sys2Proof.Laws.EncodedSize

open Sys2Proof

def Statement (i : Instr) : Prop :=
  match encode i with
  | .command p => p.rst = false ∧ p.cmdValid = true
  | .wire bytes => bytes.length = (bytes.headD 0).toNat + 1

theorem crc16 (sel : BitVec 2) (len : Len) : Statement (.crc16 sel len) := ⟨rfl, rfl⟩
theorem rxBegin : Statement (.rxBegin) := ⟨rfl, rfl⟩
theorem rxWrite (off wdata : Byte) : Statement (.rxWrite off wdata) := ⟨rfl, rfl⟩
theorem rxDecode (len : Len) : Statement (.rxDecode len) := ⟨rfl, rfl⟩
theorem rxCommit (len : Len) : Statement (.rxCommit len) := ⟨rfl, rfl⟩
theorem actInfo : Statement (.actInfo) := ⟨rfl, rfl⟩
theorem actRead (off : Byte) : Statement (.actRead off) := ⟨rfl, rfl⟩
theorem bndLocate (id : Byte) : Statement (.bndLocate id) := ⟨rfl, rfl⟩
theorem bndComp (id idx : Byte) : Statement (.bndComp id idx) := ⟨rfl, rfl⟩
theorem bndSize (id : Byte) : Statement (.bndSize id) := ⟨rfl, rfl⟩
theorem wdEval (now : Time) : Statement (.wdEval now) := ⟨rfl, rfl⟩
theorem txAppend8 (id : Byte) (value : Byte) : Statement (.txAppend8 id value) := ⟨rfl, rfl⟩
theorem txAppend16 (id : Byte) (value : Half) : Statement (.txAppend16 id value) := ⟨rfl, rfl⟩
theorem txAppend32 (id : Byte) (value : Word) : Statement (.txAppend32 id value) := ⟨rfl, rfl⟩
theorem txRequest : Statement (.txRequest) := ⟨rfl, rfl⟩
theorem txFlush (now : Time) : Statement (.txFlush now) := ⟨rfl, rfl⟩
theorem txInfo : Statement (.txInfo) := ⟨rfl, rfl⟩
theorem txRead (off : Byte) : Statement (.txRead off) := ⟨rfl, rfl⟩
theorem poll (len : Len) (now : Time) (peerIn : Peer) : Statement (.poll len now peerIn) := ⟨rfl, rfl⟩
theorem reserved00 : Statement (.reserved00) := ⟨rfl, rfl⟩
theorem reserved14 : Statement (.reserved14) := ⟨rfl, rfl⟩
theorem reserved15 : Statement (.reserved15) := ⟨rfl, rfl⟩
theorem reserved16 : Statement (.reserved16) := ⟨rfl, rfl⟩
theorem reserved17 : Statement (.reserved17) := ⟨rfl, rfl⟩
theorem reserved18 : Statement (.reserved18) := ⟨rfl, rfl⟩
theorem reserved19 : Statement (.reserved19) := ⟨rfl, rfl⟩
theorem reserved1A : Statement (.reserved1A) := ⟨rfl, rfl⟩
theorem reserved1B : Statement (.reserved1B) := ⟨rfl, rfl⟩
theorem reserved1C : Statement (.reserved1C) := ⟨rfl, rfl⟩
theorem reserved1D : Statement (.reserved1D) := ⟨rfl, rfl⟩
theorem reserved1E : Statement (.reserved1E) := ⟨rfl, rfl⟩
theorem reserved1F : Statement (.reserved1F) := ⟨rfl, rfl⟩
theorem bundleU8 (id : Byte) (value : Byte) : Statement (.bundleU8 id value) := rfl
theorem bundleU16 (id : Byte) (value : Half) : Statement (.bundleU16 id value) := rfl
theorem bundleI32 (id : Byte) (value : Word) : Statement (.bundleI32 id value) := rfl

end Sys2Proof.Laws.EncodedSize
end

