-- ==== Sys2Proof/Laws/Step.lean ====
section
/-! SUPPORT. What an operation can do, said once: `exec_effect` lists every next state that any operation can leave.
Invariants are proved from it, with no meaning unfolded again. -/

namespace Sys2Proof.Machine

open Sys2Proof

/-- The bytes an append writes and its high-water mark; none for what is no append. -/
def appendOf (cfg : Config) : Instr → Option (Nat × List Byte)
  | .txAppend8 id v => some (cfg.hwmU8.toNat, bundleBytesU8 id v)
  | .txAppend16 id v => some (251, bundleBytesU16 id v)
  | .txAppend32 id v => some (cfg.hwmI32.toNat, bundleBytesI32 id v)
  | .bundleU8 id v => some (cfg.hwmU8.toNat, bundleBytesU8 id v)
  | .bundleU16 id v => some (251, bundleBytesU16 id v)
  | .bundleI32 id v => some (cfg.hwmI32.toNat, bundleBytesI32 id v)
  | _ => none

/-- The state that a `POLL` has before its flush (R191 steps 3 to 5). -/
def accepted (len : Len) (now : Time) (q : Peer) (ctrl : Bool) (s : State) : State :=
  if ctrl then acceptControl now (acceptFrame len q s) else acceptFrame len q s

/-- The next states an operation can leave. -/
inductive Effect (s : State) : Instr → State → Prop
  /-- the operation answers and changes nothing else -/
  | answers {i : Instr} (r : Result) (hi : ∀ len now q, i ≠ .poll len now q) : Effect s i { s with result := some r }
  /-- R141 -/
  | stores (off v : Byte) (m : Memory) (h : s.rxb.write off.toNat v = some m) :
      Effect s (.rxWrite off v) ((s.setMem s.receiveSpace m).answer .ok 0 0)
  /-- R142 -/
  | commits (len : Len) (h : len.toNat ≤ 256) :
      Effect s (.rxCommit len) ((s.commit len).answer .ok 0 (zextSlot (1 - s.activeSel)))
  /-- R166 -/
  | appends {i : Instr} (hwm : Nat) (bytes : List Byte) (m : Memory) (hi : appendOf s.cfg i = some (hwm, bytes))
      (hp : s.txPending = false) (hc : s.txCursor.toNat < hwm)
      (h : s.txbuf.writeBytes s.txCursor.toNat bytes = some m) : Effect s i (appended s m bytes.length)
  /-- R170 -/
  | requests : Effect s .txRequest ({ s with txPending := true }.answer .ok 0 0)
  /-- R175, R176: a flush with a peer -/
  | flushes (now : Time) (n : Len) (t : State) (hp : s.peerValid = true) (h : flush now s = some (.sent n, t)) :
      Effect s (.txFlush now) (t.answer .ok 0 n)
  /-- R191, steps 1 and 2: nothing to do, or rejected -/
  | polls (len : Len) (now : Time) (q : Peer) (st : Status) (h : st = .noData ∨ st = .rejected) :
      Effect s (.poll len now q) (endPoll st false 0 now s)
  /-- R191, steps 3 to 7 -/
  | accepts (len : Len) (now : Time) (q : Peer) (b : Byte) (n : Len) (t : State)
      (hok : frameOk s.cfg s.rxb len = some true) (hb : s.rxb.read 0 = some b)
      (h : flush now (accepted len now q (decide (b = s.cfg.msgControl)) s) = some (.sent n, t)) :
      Effect s (.poll len now q) (endPoll .ok (decide (b = s.cfg.msgControl)) n now t)

@[simp] theorem accepted_peerValid (len : Len) (now : Time) (q : Peer) (c : Bool) (s : State) :
    (accepted len now q c s).peerValid = true := by cases c <;> rfl
@[simp] theorem accepted_peer (len : Len) (now : Time) (q : Peer) (c : Bool) (s : State) :
    (accepted len now q c s).peer = s.cfg.clipPeer q := by cases c <;> rfl
@[simp] theorem accepted_cfg (len : Len) (now : Time) (q : Peer) (c : Bool) (s : State) :
    (accepted len now q c s).cfg = s.cfg := by cases c <;> rfl
@[simp] theorem accepted_buf0 (len : Len) (now : Time) (q : Peer) (c : Bool) (s : State) :
    (accepted len now q c s).buf0 = s.buf0 := by cases c <;> rfl
@[simp] theorem accepted_buf1 (len : Len) (now : Time) (q : Peer) (c : Bool) (s : State) :
    (accepted len now q c s).buf1 = s.buf1 := by cases c <;> rfl
@[simp] theorem accepted_txbuf (len : Len) (now : Time) (q : Peer) (c : Bool) (s : State) :
    (accepted len now q c s).txbuf = s.txbuf := by cases c <;> rfl
@[simp] theorem accepted_txCursor (len : Len) (now : Time) (q : Peer) (c : Bool) (s : State) :
    (accepted len now q c s).txCursor = s.txCursor := by cases c <;> rfl
@[simp] theorem accepted_activeSel (len : Len) (now : Time) (q : Peer) (c : Bool) (s : State) :
    (accepted len now q c s).activeSel = 1 - s.activeSel := by cases c <;> rfl
@[simp] theorem accepted_activeSize (len : Len) (now : Time) (q : Peer) (c : Bool) (s : State) :
    (accepted len now q c s).activeSize = len := by cases c <;> rfl
@[simp] theorem accepted_startTs (len : Len) (now : Time) (q : Peer) (c : Bool) (s : State) :
    (accepted len now q c s).startTs = s.startTs := by cases c <;> rfl
@[simp] theorem accepted_act (len : Len) (now : Time) (q : Peer) (c : Bool) (s : State) :
    (accepted len now q c s).act = s.rxb := by cases c <;> rfl
theorem accepted_lastCtrlTs (len : Len) (now : Time) (q : Peer) (c : Bool) (s : State) :
    (accepted len now q c s).lastCtrlTs = if c then s.cfg.clipTime now else s.lastCtrlTs := by cases c <;> rfl
theorem accepted_ctrlSeen (len : Len) (now : Time) (q : Peer) (c : Bool) (s : State) :
    (accepted len now q c s).ctrlSeen = (c || s.ctrlSeen) := by cases c <;> rfl
theorem accepted_events (len : Len) (now : Time) (q : Peer) (c : Bool) (s : State) :
    (accepted len now q c s).events = s.events ++ if c then [Event.ctrlStrobe] else [] := by
  cases c <;> simp [accepted]

/-! ## The meanings, one by one -/

theorem execCrc16_effect {sel : BitVec 2} {len : Len} {s t : State} (h : execCrc16 sel len s = .next t) :
    Effect s (.crc16 sel len) t := by
  rw [execCrc16] at h
  split at h
  · cases h; exact .answers _ (by simp)
  · split at h
    · cases h; exact .answers _ (by simp)
    · rw [access_eq_next, Option.map_eq_some_iff] at h
      obtain ⟨bytes, -, rfl⟩ := h
      exact .answers _ (by simp)

theorem execRxWrite_effect {off v : Byte} {s t : State} (h : execRxWrite off v s = .next t) :
    Effect s (.rxWrite off v) t := by
  rw [execRxWrite, access_eq_next, Option.map_eq_some_iff] at h
  obtain ⟨m, hm, rfl⟩ := h
  exact .stores off v m hm

theorem execRxDecode_effect {len : Len} {s t : State} (h : execRxDecode len s = .next t) :
    Effect s (.rxDecode len) t := by
  rw [execRxDecode, access_eq_next, Option.map_eq_some_iff] at h
  obtain ⟨ok, -, rfl⟩ := h
  cases ok <;> exact .answers _ (by simp)

theorem execRxCommit_effect {len : Len} {s t : State} (h : execRxCommit len s = .next t) :
    Effect s (.rxCommit len) t := by
  rw [execRxCommit] at h
  split at h
  · cases h; exact .answers _ (by simp)
  · next hl =>
    cases h
    rw [Bool.not_eq_true, ← Bool.not_eq_true, lenOutOfRange_iff] at hl
    exact .commits len (by omega)

theorem execActRead_effect {off : Byte} {s t : State} (h : execActRead off s = .next t) :
    Effect s (.actRead off) t := by
  rw [execActRead, access_eq_next, Option.map_eq_some_iff] at h
  obtain ⟨b, -, rfl⟩ := h
  exact .answers _ (by simp)

theorem execBndLocate_effect {id : Byte} {s t : State} (h : execBndLocate id s = .next t) :
    Effect s (.bndLocate id) t := by
  rw [execBndLocate, access_eq_next, Option.map_eq_some_iff] at h
  obtain ⟨l, -, rfl⟩ := h
  cases l <;> exact .answers _ (by simp)

theorem execBndComp_effect {id idx : Byte} {s t : State} (h : execBndComp id idx s = .next t) :
    Effect s (.bndComp id idx) t := by
  rw [execBndComp, access_eq_next, Option.bind_eq_some_iff] at h
  obtain ⟨l, -, h⟩ := h
  cases l with
  | notFound => cases h; exact .answers _ (by simp)
  | found p n =>
    simp only at h
    split at h
    · cases h; exact .answers _ (by simp)
    · split at h
      · cases h; exact .answers _ (by simp)
      · rw [Option.map_eq_some_iff] at h
        obtain ⟨b, -, rfl⟩ := h
        exact .answers _ (by simp)

theorem execBndSize_effect {id : Byte} {s t : State} (h : execBndSize id s = .next t) :
    Effect s (.bndSize id) t := by
  rw [execBndSize, access_eq_next, Option.map_eq_some_iff] at h
  obtain ⟨l, -, rfl⟩ := h
  cases l <;> exact .answers _ (by simp)

theorem execTxRead_effect {off : Byte} {s t : State} (h : execTxRead off s = .next t) :
    Effect s (.txRead off) t := by
  rw [execTxRead, access_eq_next, Option.map_eq_some_iff] at h
  obtain ⟨b, -, rfl⟩ := h
  exact .answers _ (by simp)

theorem appendBundle_effect {i : Instr} {hwm : Nat} {bytes : List Byte} {s t : State}
    (hi : appendOf s.cfg i = some (hwm, bytes)) (h : appendBundle hwm bytes s = .next t) : Effect s i t := by
  obtain ⟨-, rfl⟩ | ⟨hp, hc, m, hm, rfl⟩ := appendBundle_cases h
  · refine .answers _ fun len now q e => ?_
    subst e; cases hi
  · exact .appends hwm bytes m hi hp hc hm

theorem flush_sent {now : Time} {s : State} {r : Flushed × State} (h : flush now s = some r)
    (hp : s.peerValid = true) : r.1 = .sent (s.txCursor + 2) := by
  rw [flush, if_pos hp, Option.bind_eq_some_iff] at h
  obtain ⟨t, -, h⟩ := h
  rw [Option.map_eq_some_iff] at h
  obtain ⟨bytes, -, rfl⟩ := h
  rfl

theorem execTxFlush_effect {now : Time} {s t : State} (h : execTxFlush now s = .next t) :
    Effect s (.txFlush now) t := by
  rw [execTxFlush, access_eq_next, Option.map_eq_some_iff] at h
  obtain ⟨⟨f, u⟩, hf, rfl⟩ := h
  by_cases hp : s.peerValid = true
  · have := flush_sent hf hp
    simp only at this
    subst this
    exact .flushes now _ u hp hf
  · rw [flush_no_peer now (by simpa using hp)] at hf
    cases hf
    exact .answers _ (by simp)

theorem pollAccept_eq (len : Len) (now : Time) (q : Peer) (s : State) :
    pollAccept len now q s = (s.rxb.read 0).bind fun b =>
      (flush now (accepted len now q (decide (b = s.cfg.msgControl)) s)).map fun r =>
        endPoll .ok (decide (b = s.cfg.msgControl)) r.1.length now r.2 := rfl

theorem execPoll_effect {len : Len} {now : Time} {q : Peer} {s t : State} (h : execPoll len now q s = .next t) :
    Effect s (.poll len now q) t := by
  rw [execPoll] at h
  split at h
  · cases h; exact .polls len now q .noData (.inl rfl)
  · rw [access_eq_next, Option.bind_eq_some_iff] at h
    obtain ⟨ok, hok, h⟩ := h
    cases ok with
    | false => cases h; exact .polls len now q .rejected (.inr rfl)
    | true =>
      rw [if_pos rfl, pollAccept_eq, Option.bind_eq_some_iff] at h
      obtain ⟨b, hb, h⟩ := h
      rw [Option.map_eq_some_iff] at h
      obtain ⟨⟨f, u⟩, hf, rfl⟩ := h
      have := flush_sent hf (accepted_peerValid _ _ _ _ _)
      simp only at this
      subst this
      exact .accepts len now q b _ u hok hb hf

/-- Everything an operation can do when it answers a next state. -/
theorem exec_effect {i : Instr} {s t : State} (h : exec i s = .next t) : Effect s i t := by
  cases i with
  | crc16 sel len => exact execCrc16_effect h
  | rxWrite off v => exact execRxWrite_effect h
  | rxDecode len => exact execRxDecode_effect h
  | rxCommit len => exact execRxCommit_effect h
  | actRead off => exact execActRead_effect h
  | bndLocate id => exact execBndLocate_effect h
  | bndComp id idx => exact execBndComp_effect h
  | bndSize id => exact execBndSize_effect h
  | txAppend8 id v => exact appendBundle_effect rfl h
  | txAppend16 id v => exact appendBundle_effect rfl h
  | txAppend32 id v => exact appendBundle_effect rfl h
  | bundleU8 id v => exact appendBundle_effect rfl h
  | bundleU16 id v => exact appendBundle_effect rfl h
  | bundleI32 id v => exact appendBundle_effect rfl h
  | txFlush now => exact execTxFlush_effect h
  | txRead off => exact execTxRead_effect h
  | poll len now q => exact execPoll_effect h
  | txRequest => cases h; exact .requests
  | rxBegin | actInfo | wdEval | txInfo | reserved00 | reserved14 | reserved15 | reserved16 | reserved17
  | reserved18 | reserved19 | reserved1A | reserved1B | reserved1C | reserved1D | reserved1E | reserved1F =>
    cases h; exact .answers _ (by simp)

/-! ## The step -/

/-- A step takes the next sample: reset, operation or nothing. -/
theorem step_cons {s : State} {p : Ports} {rest : List Ports} (h : s.inputs = p :: rest) :
    step s = stepPorts p { s with inputs := rest } := by rw [step, h]

theorem step_nil {s : State} (h : s.inputs = []) : step s = .next s.idle := by rw [step, h]

/-- Everything a step can do when it answers a next state. -/
theorem step_cases {s t : State} (h : step s = .next t) :
    (s.inputs = [] ∧ t = s.idle) ∨
    ∃ p rest, s.inputs = p :: rest ∧
      ((p.rst = true ∧ t = State.afterReset s.cfg (s.resets + 1) p.now rest s.events) ∨
       (p.rst = false ∧ p.cmdValid = true ∧ exec (decodeCommand p) { s with inputs := rest } = .next t) ∨
       (p.rst = false ∧ p.cmdValid = false ∧ t = { s with inputs := rest }.idle)) := by
  cases hin : s.inputs with
  | nil => rw [step_nil hin] at h; cases h; exact .inl ⟨rfl, rfl⟩
  | cons p rest =>
    rw [step_cons hin, stepPorts] at h
    refine .inr ⟨p, rest, rfl, ?_⟩
    split at h
    · next hr => cases h; exact .inl ⟨hr, rfl⟩
    · next hr =>
      rw [Bool.not_eq_true] at hr
      split at h
      · next hv => exact .inr (.inl ⟨hr, hv, h⟩)
      · next hv => cases h; exact .inr (.inr ⟨hr, by simpa using hv, rfl⟩)

end Sys2Proof.Machine
end

