-- ==== Sys2Proof/Tests/Slice0.lean ====
section
/-! SUPPORT. Tests: malformed terms that the checks refuse; words written out from R81 and R74 for every constructor;
vectors of `95_test_vectors.md`, one step each; and for every statement with hypotheses states and operands that meet
them together. Expected values are the spec's, not the model's. -/

namespace Sys2Proof.Tests

open Sys2Proof Sys2Proof.Machine Sys2Proof.Claims

/-! ## WellFormed refuses ill-formed terms -/

theorem test_wf_refuses_crc16_select_3 : (Instr.crc16 3 0).wellFormed = false := by decide
theorem test_wf_refuses_crc16_length_257 : (Instr.crc16 0 257).wellFormed = false := by decide
theorem test_wf_accepts_crc16_length_256 : (Instr.crc16 2 256).wellFormed = true := by decide
theorem test_wf_refuses_commit_length_257 : (Instr.rxCommit 257).wellFormed = false := by decide
theorem test_wf_accepts_decode_length_257 : (Instr.rxDecode 257).wellFormed = true := by decide
theorem test_wf_refuses_reserved : [Instr.reserved00, .reserved14, .reserved15, .reserved16, .reserved17, .reserved18,
    .reserved19, .reserved1A, .reserved1B, .reserved1C, .reserved1D, .reserved1E, .reserved1F].all
    (fun i => i.wellFormed = false) = true := by decide
theorem test_wf_refuses_empty_load : (Pseudo.rxLoad []).wellFormed = false := by decide
theorem test_wf_refuses_empty_frame : (Pseudo.rxFrame [] 0 0).wellFormed = false := by decide
theorem test_wf_refuses_load_of_257_bytes : (Pseudo.rxLoad (List.replicate 257 0)).wellFormed = false := by
  rw [Pseudo.wellFormed, List.length_replicate]; rfl
theorem test_wf_refuses_frame_of_257_bytes : (Pseudo.rxFrame (List.replicate 257 0) 0 0).wellFormed = false := by
  rw [Pseudo.wellFormed, List.length_replicate]; rfl
theorem test_wf_refuses_payload_of_255_bytes : (Bundle.mk 7 (List.replicate 255 0)).wellFormed = false := by
  rw [Bundle.wellFormed, List.length_replicate]; rfl

/-- R6: the ports are as wide as the parameters say. -/
theorem test_wf_ports_fit :
    Ports.fits Config.deployed { Ports.blank with now := 2 ^ 32 - 1, peerIn := 2 ^ 48 - 1 } = true ∧
    Ports.fits Config.deployed { Ports.blank with now := 2 ^ 32 } = false ∧
    Ports.fits Config.deployed { Ports.blank with peerIn := 2 ^ 48 } = false := by decide
/-- D4, R165: the values of R6 are legal, the next ones are not. -/
theorem test_wf_legal_configurations : Config.deployed.legal ∧ ¬ { Config.deployed with minFrameLen := 4 }.legal ∧
    ¬ { Config.deployed with hwmU8 := 253 }.legal ∧ ¬ { Config.deployed with hwmI32 := 250 }.legal := by decide

/-! ## Decoding words written out from the spec -/

/-- A sample with a different value on every operand port, so that a swapped port shows. -/
def busyPorts (op : BitVec 5) : Ports where
  rst := false
  cmdValid := true
  op := op
  sel := 2
  id := 0x11
  idx := 0x22
  off := 0x33
  wdata := 0x44
  len := 0x155
  val := 0x8899AABB
  now := 0x66778899
  peerIn := 0x0A0B0C0D0E0F

theorem test_decode_crc_exchange : [0b00001#5, 0b00010#5, 0b00011#5, 0b00100#5, 0b00101#5, 0b00110#5, 0b00111#5].map
    (fun op => decodeCommand (busyPorts op)) =
    [.crc16 2 0x155, .rxBegin, .rxWrite 0x33 0x44, .rxDecode 0x155, .rxCommit 0x155, .actInfo, .actRead 0x33] := by
  decide

theorem test_decode_index_watchdog : [0b01000#5, 0b01001#5, 0b01010#5, 0b01011#5].map
    (fun op => decodeCommand (busyPorts op)) =
    [.bndLocate 0x11, .bndComp 0x11 0x22, .bndSize 0x11, .wdEval 0x66778899] := by decide

theorem test_decode_assembler : [0b01100#5, 0b01101#5, 0b01110#5, 0b01111#5, 0b10000#5, 0b10001#5, 0b10010#5].map
    (fun op => decodeCommand (busyPorts op)) =
    [.txAppend8 0x11 0xBB, .txAppend16 0x11 0xAABB, .txAppend32 0x11 0x8899AABB, .txRequest, .txFlush 0x66778899,
      .txInfo, .txRead 0x33] := by decide

theorem test_decode_poll : decodeCommand (busyPorts 0b10011#5) = .poll 0x155 0x66778899 0x0A0B0C0D0E0F := by decide

theorem test_decode_reserved : [0b00000#5, 0b10100#5, 0b10101#5, 0b10110#5, 0b10111#5, 0b11000#5, 0b11001#5, 0b11010#5,
    0b11011#5, 0b11100#5, 0b11101#5, 0b11110#5, 0b11111#5].map (fun op => decodeCommand (busyPorts op)) =
    [.reserved00, .reserved14, .reserved15, .reserved16, .reserved17, .reserved18, .reserved19, .reserved1A,
      .reserved1B, .reserved1C, .reserved1D, .reserved1E, .reserved1F] := by decide

theorem test_decode_wire_u8 : decode (.wire [0x02, 0x10, 0x7F]) = .ok (.bundleU8 0x10 0x7F) := by decide
theorem test_decode_wire_u16 : decode (.wire [0x03, 0x05, 0x01, 0x2C]) = .ok (.bundleU16 0x05 300) := by decide
theorem test_decode_wire_i32 : decode (.wire [0x05, 0x09, 0xFF, 0xFF, 0xFF, 0xFE]) = .ok (.bundleI32 0x09 (-2)) := by
  decide
theorem test_decode_wire_rejects_empty : decode (.wire []) = .error .emptyBundle := by decide
theorem test_decode_wire_rejects_tag_4 : decode (.wire [0x04, 0x10, 0x7F]) = .error (.unknownTag 0x04) := by decide
theorem test_decode_wire_rejects_truncated :
    decode (.wire [0x05, 0x09, 0xFF, 0xFF, 0xFF]) = .error (.truncatedBundle 0x05) := by decide
theorem test_decode_wire_rejects_trailing : decode (.wire [0x02, 0x10, 0x7F, 0x00]) = .error .trailingBytes := by decide

theorem test_table_words : [0x00, 0x01, 0x0F, 0x13, 0x14, 0x1F].map (decodeTableWord 8) =
    [some .reserved00, some (.crc16 0 0), some .txRequest, some (.poll 0 0 0), some .reserved14, some .reserved1F] := by
  decide
theorem test_table_word_of_six_bits : decodeTableWord 8 0x20 = none := by decide

/-! ## Small states -/

/-- The parameters of `95_test_vectors.md`, "chosen for these vectors only". -/
def vecCfg : Config := { Config.deployed with msgFeedback := 0x66, deviceId := 0x01, firmwareVersion := 0x10 }

/-- A memory that holds these bytes from address 0, and zeros above them. -/
def memOf (bytes : List Byte) : Memory := (List.range 256).map fun a => (a, bytes.getD a 0)

/-- After a reset at `now = t`, with these bytes in the receive slot, the active slot and `TXBUF`, and zero for what a
reset leaves unspecified. -/
def holding (t : Time) (rx act tx : List Byte) : State :=
  { State.afterReset vecCfg 0 t [] [] with
    buf1 := memOf rx, buf0 := memOf act, txbuf := memOf tx, peer := 0, lastCtrlTs := 0 }

/-- Result and events of an operation. -/
def outOf (o : Host.Outcome State Fault Refusal) : Option (Result × List Event) :=
  match o with
  | .next s => s.result.map fun r => (r, s.events)
  | .fault _ => none
  | .refused _ => none

/-- A byte of `TXBUF` and the cursor after an operation. -/
def txAfter (o : Host.Outcome State Fault Refusal) (a n : Nat) : Option (List Byte × Len) :=
  match o with
  | .next s => (s.txbuf.readBytes a n).map fun bs => (bs, s.txCursor)
  | .fault _ => none
  | .refused _ => none

/-- The control frame `F` of the spec's vectors. -/
def frameF : List Byte := [0x01, 0x02, 0xFF, 0x02, 0x07, 0x80, 0x55, 0xEA]

/-- The frame `M` of V-BND. -/
def frameM : List Byte := [0x01, 0x02, 0xFF, 0x02, 0x10, 0xAA, 0x03, 0x11, 0xBB, 0xCC, 0x01, 0x12, 0x02, 0x10, 0xDD, 0x05,
  0x13, 0x01, 0x02, 0x03, 0x04, 0x31, 0x6F]

/-- `M` committed. -/
def activeM : State := { holding 0 [] frameM [] with activeSize := 23 }

/-- A state in which a peer is known and a control frame was accepted at `now = last`. -/
def answering (t last : Time) : State :=
  { holding t [] [] [] with peer := 5, peerValid := true, ctrlSeen := true, lastCtrlTs := vecCfg.clipTime last }

theorem memOf_wf (bytes : List Byte) : (memOf bytes).wf := by simp [Memory.wf, memOf, Function.comp_def]

theorem vecCfg_legal : vecCfg.legal := by decide

theorem holding_sound (t : Time) (rx act tx : List Byte) : (holding t rx act tx).Sound :=
  ⟨vecCfg_legal, memOf_wf _, memOf_wf _, memOf_wf _, by simp [holding], by simp [holding], by simp [holding],
    by simp [holding], Nat.two_pow_pos _, clipTime_lt vecCfg t, Nat.two_pow_pos _⟩

theorem answering_sound (t last : Time) : (answering t last).Sound :=
  ⟨vecCfg_legal, memOf_wf _, memOf_wf _, memOf_wf _, by simp [answering, holding], by simp [answering, holding],
    by simp [answering, holding], by simp [answering], (by decide : 5 < 2 ^ 48), clipTime_lt vecCfg t, clipTime_lt vecCfg last⟩

theorem activeM_sound : activeM.Sound :=
  ⟨vecCfg_legal, memOf_wf _, memOf_wf _, memOf_wf _, by decide, by decide, by decide, by decide, by decide, by decide,
    by decide⟩

/-! ## Vectors of `95_test_vectors.md`, one step each

`decide +kernel` lets the kernel alone evaluate; a family's vectors stand in one theorem, each with its source. -/

/-- V-CRC: the check string in the receive slot; `sel = 1` reads the active slot. -/
theorem test_crc16_vectors :
    outOf (exec (.crc16 0 9) (holding 0 [0x31, 0x32, 0x33, 0x34, 0x35, 0x36, 0x37, 0x38, 0x39] [] [])) =
      some (⟨.ok, 0xBB3D, 0⟩, []) ∧
    outOf (exec (.crc16 1 2) (holding 0 [] [0xFF, 0xFF] [])) = some (⟨.ok, 0xB001, 0⟩, []) := by decide +kernel

/-- V-XCH. -/
theorem test_rx_begin : outOf (exec .rxBegin (holding 0 [] [] [])) = some (⟨.ok, 0, 1⟩, []) := by decide
/-- V-XCH. -/
theorem test_rx_commit :
    outOf (exec (.rxCommit 257) (holding 0 [] [] [])) = some (⟨.illegal, 0, 0⟩, []) ∧
    outOf (exec (.rxCommit 0) (holding 0 [] [] [])) = some (⟨.ok, 0, 1⟩, []) := by decide
/-- V-XCH. -/
theorem test_act_info : outOf (exec .actInfo { holding 0 [] [] [] with activeSel := 1, activeSize := 256 }) =
    some (⟨.ok, 256, 1⟩, []) := by decide
/-- V-XCH: `RX.WRITE` at offset 255 goes to `BUF1` and not to `BUF0`; S5: `ACT.READ`. -/
theorem test_rx_write_act_read :
    (match exec (.rxWrite 255 0x5A) (holding 0 [] [] []) with
      | .next s => (s.buf1.read 255, s.buf0.read 255)
      | _ => (none, none)) = (some 0x5A, some 0) ∧
    outOf (exec (.actRead 5) (holding 0 [] frameF [])) = some (⟨.ok, 0x80, 0⟩, []) := by decide +kernel

/-- V-DEC: the smallest frame; a trailer with its bytes swapped; a right checksum with version `0x03`. -/
theorem test_rx_decode_vectors :
    outOf (exec (.rxDecode 5) (holding 0 [0x01, 0x02, 0xFF, 0xE0, 0x10] [] [])) = some (⟨.ok, 0, 0⟩, []) ∧
    outOf (exec (.rxDecode 8) (holding 0 [0x01, 0x02, 0xFF, 0x02, 0x07, 0x80, 0xEA, 0x55] [] [])) =
      some (⟨.rejected, 0, 0⟩, []) ∧
    outOf (exec (.rxDecode 8) (holding 0 [0x01, 0x03, 0xFF, 0x02, 0x07, 0x80, 0x95, 0xD7] [] [])) =
      some (⟨.rejected, 0, 0⟩, []) := by decide +kernel

/-- V-BND: the last bundle, an absent one, the first of two, an index past the end, a size; in `Z1` a matching bundle with
length byte 0 is not found. -/
theorem test_bnd_vectors :
    outOf (exec (.bndLocate 0x13) activeM) = some (⟨.ok, 4, 15⟩, []) ∧
    outOf (exec (.bndLocate 0x14) activeM) = some (⟨.notFound, 0, 0⟩, []) ∧
    outOf (exec (.bndComp 0x10 0) activeM) = some (⟨.ok, 0xAA, 0⟩, []) ∧
    outOf (exec (.bndComp 0x13 4) activeM) = some (⟨.notFound, 0, 0⟩, []) ∧
    outOf (exec (.bndSize 0x11) activeM) = some (⟨.ok, 2, 0⟩, []) ∧
    outOf (exec (.bndSize 0x02)
      { holding 0 [] [0x01, 0x02, 0xFF, 0x00, 0x02, 0x21, 0x55, 0x99, 0x7C] [] with activeSize := 9 }) =
      some (⟨.notFound, 0, 0⟩, []) := by decide +kernel

/-- V-WD: reset at 5000, accepted at 5400, asked at 5501; and the wrap of `now`. -/
theorem test_wd_eval :
    outOf (exec (.wdEval 5501) (answering 5000 5400)) = some (⟨.ok, 1, 0⟩, []) ∧
    outOf (exec (.wdEval 100) (answering 5000 4294967200)) = some (⟨.ok, 1, 0⟩, []) := by decide

/-- R6, R155, R156: with `TIME_W = 16`, reset at 65000 and a control frame at 50: at 100 the uptime is 636 and the age 50; a
`now` of more bits counts by its low 16. With `PEER_W = 8` the tag's low 8 bits are kept. -/
theorem test_narrow_instance :
    outOf (exec (.wdEval 100) { answering 65000 50 with cfg := { vecCfg with timeW := 16 } }) = some (⟨.ok, 1, 0⟩, []) ∧
    outOf (exec (.wdEval 65636) { answering 65000 50 with cfg := { vecCfg with timeW := 16 } }) =
      some (⟨.ok, 1, 0⟩, []) ∧
    (acceptFrame 8 0x1234 { answering 0 0 with cfg := { vecCfg with peerW := 8 } }).peer = 0x34 := by decide
/-- R6: other marks and another least length: an append at cursor 6 with `HWM_U8 = 6` is dropped, a frame of 5 bytes with
`MIN_FRAME_LEN = 6` is rejected. -/
theorem test_other_marks :
    outOf (exec (.txAppend8 1 1) { holding 0 [] [] [] with cfg := { vecCfg with hwmU8 := 6 } }) =
      some (⟨.dropped, 0, 6⟩, []) ∧
    outOf (exec (.rxDecode 5)
      { holding 0 [0x01, 0x02, 0xFF, 0xE0, 0x10] [] [] with cfg := { vecCfg with minFrameLen := 6 } }) =
      some (⟨.rejected, 0, 0⟩, []) := by decide

/-- V-TX, byte images; R74, the wire bundles. -/
theorem test_append_images :
    txAfter (exec (.txAppend8 0x10 0x7F) (holding 0 [] [] [])) 6 3 = some ([0x02, 0x10, 0x7F], 9) ∧
    txAfter (exec (.txAppend16 0x05 300) (holding 0 [] [] [])) 6 4 = some ([0x03, 0x05, 0x01, 0x2C], 10) ∧
    txAfter (exec (.txAppend32 0x0A 0x80000000) (holding 0 [] [] [])) 6 6 =
      some ([0x05, 0x0A, 0x80, 0x00, 0x00, 0x00], 12) ∧
    txAfter (exec (.bundleU8 0x10 0x7F) (holding 0 [] [] [])) 6 3 = some ([0x02, 0x10, 0x7F], 9) ∧
    txAfter (exec (.bundleU16 0x05 300) (holding 0 [] [] [])) 6 4 = some ([0x03, 0x05, 0x01, 0x2C], 10) ∧
    txAfter (exec (.bundleI32 0x0A 0x80000000) (holding 0 [] [] [])) 6 6 =
      some ([0x05, 0x0A, 0x80, 0x00, 0x00, 0x00], 12) := by decide +kernel
/-- V-TX, boundaries of the guard: accepted at 251, 250 and 248, dropped at 252, 251 and 249. -/
theorem test_append_guard :
    outOf (exec (.txAppend8 1 1) { holding 0 [] [] [] with txCursor := 251 }) = some (⟨.ok, 0, 254⟩, []) ∧
    outOf (exec (.txAppend16 1 1) { holding 0 [] [] [] with txCursor := 250 }) = some (⟨.ok, 0, 254⟩, []) ∧
    outOf (exec (.txAppend32 1 1) { holding 0 [] [] [] with txCursor := 248 }) = some (⟨.ok, 0, 254⟩, []) ∧
    outOf (exec (.txAppend8 1 1) { holding 0 [] [] [] with txCursor := 252 }) = some (⟨.dropped, 0, 252⟩, []) ∧
    outOf (exec (.txAppend16 1 1) { holding 0 [] [] [] with txCursor := 251 }) = some (⟨.dropped, 0, 251⟩, []) ∧
    outOf (exec (.txAppend32 1 1) { holding 0 [] [] [] with txCursor := 249 }) = some (⟨.dropped, 0, 249⟩, []) := by
  decide +kernel
/-- V-TX, pending: the flag is set by `TX.REQUEST`, shown by `TX.INFO` and kept by a flush without a peer. -/
theorem test_tx_pending :
    (match exec .txRequest (holding 0 [] [] []) with
      | .next s => s.txPending
      | _ => false) = true ∧
    outOf (exec .txInfo { holding 0 [] [] [] with txPending := true }) = some (⟨.ok, 1, 6⟩, []) ∧
    (match exec (.txFlush 10) { holding 0 [] [] [] with txPending := true } with
      | .next s => (s.txPending, s.result)
      | _ => (false, none)) = (true, some ⟨.noPeer, 0, 0⟩) := by decide
/-- S6: `TX.READ`; V-TX: a flush with a peer and no control frame ever; V-POLL: the control frame `F` at 600, and a frame
that is no control frame at 900. -/
theorem test_tx_read_flush_poll :
    outOf (exec (.txRead 9) (holding 0 [] [] [0, 0, 0, 0, 0, 0, 0x03, 0x05, 0x01, 0x2C])) = some (⟨.ok, 0x2C, 0⟩, []) ∧
    outOf (exec (.txFlush 100) { holding 0 [] [] [] with peer := 5, peerValid := true }) =
      some (⟨.ok, 0, 8⟩, [.txFrame 5 [0x66, 0x02, 0x01, 0x10, 0x00, 0x00, 0x3F, 0x70]]) ∧
    outOf (exec (.poll 8 600 5) (holding 0 frameF [] [])) =
      some (⟨.ok, 3, 8⟩, [.ctrlStrobe, .txFrame 5 [0x66, 0x02, 0x01, 0x10, 0xFF, 0x00, 0xCF, 0x31]]) ∧
    outOf (exec (.poll 8 900 7) (holding 0 [0x02, 0x02, 0xFF, 0x02, 0x07, 0x80, 0x66, 0xEA] [] [])) =
      some (⟨.ok, 0, 8⟩, [.txFrame 7 [0x66, 0x02, 0x01, 0x10, 0x00, 0x00, 0x3F, 0x70]]) := by decide +kernel

/-- V-ILL. -/
theorem test_reserved : [Instr.reserved00, .reserved14, .reserved1F].map
    (fun i => outOf (exec i (holding 0 [] [] []))) =
    [some (⟨.illegal, 0, 0⟩, []), some (⟨.illegal, 0, 0⟩, []), some (⟨.illegal, 0, 0⟩, [])] := by decide
/-- R200. -/
theorem test_status_codes : [Status.ok, .notFound, .rejected, .dropped, .noPeer, .noData, .illegal].map Status.code =
    [0, 1, 2, 3, 4, 5, 7] := by decide
/-- R86. -/
theorem test_text : instrText .txRequest = "TX.REQUEST" ∧ statusText .noPeer = "NO_PEER" := by decide

/-! ## Witnesses: for each statement with hypotheses, states and operands that meet them together

Named after the statement; one conjunct for each clause, at the ends of the clause's range. -/

theorem witness_WrittenOutWordsDecode : [0b00001#5, 0b00011#5, 0b00100#5, 0b01001#5, 0b01011#5, 0b01110#5, 0b10011#5,
    0b11111#5].map (fun op => (busyPorts op).op.toNat) = [1, 3, 4, 9, 11, 14, 19, 31] := by decide

/-- The sample that presents `POLL` of eight bytes at 600. -/
def pollPorts : Ports := { Ports.blank with op := 0b10011#5, len := 8, now := 600, peerIn := 5 }

theorem witness_StepRunsThePresentedOperation :
    ({ holding 0 frameF [] [] with inputs := [pollPorts] } : State).inputs = pollPorts :: [] ∧ pollPorts.rst = false ∧
    pollPorts.cmdValid = true ∧ decode (.command pollPorts) = .ok (.poll 8 600 5) := by decide

theorem witness_PlacedWordRunsNext : decodeTableWord 8 0x00 = some .reserved00 ∧
    decodeTableWord 5 0x13 = some (.poll 0 0 0) ∧ decodeTableWord 0 0x1F = some .reserved1F := by decide

theorem witness_ResetSampleGivesTheResetTable : ∃ (s : State) (p : Ports) (rest : List Ports),
    s.inputs = p :: rest ∧ p.rst = true :=
  ⟨{ holding 0 [] [] [] with inputs := [{ pollPorts with rst := true }] }, { pollPorts with rst := true }, [], rfl, rfl⟩

theorem witness_FirstBehaviourAfterReset : (∃ ins : List Ports, ins = []) ∧ vecCfg.legal ∧ 6 < vecCfg.hwmU8.toNat ∧
    6 < vecCfg.hwmI32.toNat := ⟨⟨[], rfl⟩, by decide⟩

theorem witness_IdleStepHoldsTheState : (holding 0 [] [] []).inputs = [] ∧
    ∃ (s : State) (p : Ports) (rest : List Ports), s.inputs = p :: rest ∧ p.rst = false ∧ p.cmdValid = false :=
  ⟨rfl, { holding 0 [] [] [] with inputs := [{ pollPorts with cmdValid := false }, pollPorts] },
    { pollPorts with cmdValid := false }, [pollPorts], rfl, rfl, rfl⟩

theorem witness_ChecksumFollowsTheRecurrence :
    (0 : Fin 256).val = ((crc16 Config.defaultCrcTable [] ^^^ (0x00 : Byte).setWidth 16) &&& 0x00FF).toNat ∧
    (255 : Fin 256).val = ((crc16 Config.defaultCrcTable [] ^^^ (0xFF : Byte).setWidth 16) &&& 0x00FF).toNat := by
  decide

theorem witness_Crc16AnswersTheChecksum :
    256 < (257 : Len).toNat ∧ (3 : BitVec 2) = 3 ∧
    (∀ sel : BitVec 2, sel ∈ [0, 1, 2] → sel ≠ 3) ∧ (0 : Len).toNat ≤ 256 ∧ (256 : Len).toNat ≤ 256 ∧
    (holding 0 [] [] []).Sound :=
  ⟨by decide, rfl, by decide, by decide, by decide, holding_sound _ _ _ _⟩

theorem witness_Crc16DependsOnTheBufferOnly : ∀ sel ∈ [(0 : BitVec 2), 1, 2, 3], ∃ s s' t t' : State, s'.cfg ≠ s.cfg ∧
    s'.cfg.crcTable = s.cfg.crcTable ∧ (sel = 0 → s'.rxb = s.rxb) ∧ (sel = 1 → s'.act = s.act) ∧ (sel = 2 → s'.txbuf = s.txbuf) ∧
    exec (.crc16 sel 0) s = .next t ∧ exec (.crc16 sel 0) s' = .next t' := by
  intro sel hsel
  have hne : ({ holding 0 [] [] [] with cfg := { vecCfg with protocolVersion := 3 } } : State).cfg ≠ (holding 0 [] [] []).cfg :=
    fun h => absurd (congrArg Config.protocolVersion h) (by decide)
  simp only [List.mem_cons, List.not_mem_nil, or_false] at hsel
  rcases hsel with rfl | rfl | rfl | rfl <;>
    exact ⟨_, _, _, _, hne, rfl, fun _ => rfl, fun _ => rfl, fun _ => rfl, rfl, rfl⟩

theorem frameF_acceptable : acceptable vecCfg frameF = true := by decide +kernel

/-- `F` in the receive slot decodes. -/
theorem decode_frameF (t : Time) (act tx : List Byte) :
    exec (.rxDecode 8) (holding t frameF act tx) = .next (answered (holding t frameF act tx) .ok 0 0) := by
  have h : frameOk vecCfg (memOf frameF) 8 = some true := by decide +kernel
  have hr : (holding t frameF act tx).rxb = memOf frameF := by
    simp [holding, State.rxb, State.receiveSpace, slotSpace, State.mem]
  have hc : (holding t frameF act tx).cfg = vecCfg := rfl
  have h' : decodeOk 8 (holding t frameF act tx) = some true := by rw [decodeOk, hr, hc, h]
  rw [exec, execRxDecode, h']
  rfl

theorem witness_OneChangedByteIsAlwaysDetected : ∀ off ∈ [(0 : Byte), 5], ∃ (s t : State) (v old : Byte), s.Sound ∧
    s.cfg.crcTable = Config.defaultCrcTable ∧ exec (.rxDecode 8) s = .next (answered s .ok 0 0) ∧
    off.toNat + 2 < (8 : Len).toNat ∧ s.rxb.read off.toNat = some old ∧ v ≠ old ∧ exec (.rxWrite off v) s = .next t := by
  intro off h
  simp only [List.mem_cons, List.not_mem_nil, or_false] at h
  rcases h with rfl | rfl
  · exact ⟨holding 0 frameF [] [], _, 0x81, 0x01, holding_sound _ _ _ _, rfl, decode_frameF _ _ _, by decide, rfl,
      by decide, rfl⟩
  · exact ⟨holding 0 frameF [] [], _, 0x81, 0x80, holding_sound _ _ _ _, rfl, decode_frameF _ _ _, by decide, rfl,
      by decide, rfl⟩

/-- For the statements whose one hypothesis is the invariant: `RxWriteStoresOneByte`, `ActReadAnswersTheStoredByte`,
`TxReadAnswersTheStoredByte` (at the offsets 0 and 255) and `SoundStatesAlwaysStep`. -/
theorem witness_Sound : (holding 0 frameF frameM []).Sound ∧ (0 : Byte).toNat = 0 ∧ (255 : Byte).toNat = 255 :=
  ⟨holding_sound _ _ _ _, rfl, rfl⟩

theorem witness_RxCommitExchangesTheRoles : (0 : Len).toNat ≤ 256 ∧ (256 : Len).toNat ≤ 256 ∧ 256 < (257 : Len).toNat := by
  decide

theorem witness_CommitActivatesTheReceiveSlot : (0 : Len).toNat ≤ 256 ∧ (256 : Len).toNat ≤ 256 := by decide

theorem witness_ActiveFrameIsStableBetweenCommits : ∃ i s t, exec i s = .next t ∧ (∀ len, i ≠ .rxCommit len) ∧
    i = .poll 4 600 5 ∧ ∀ len now q, i = .poll len now q → statusOf t ≠ some .ok :=
  ⟨.poll 4 600 5, holding 0 [] [] [], _, rfl, by simp, rfl, fun _ _ _ _ h => by cases h⟩

theorem witness_WhoWritesEachMemory :
    (∃ i s t, exec i s = .next t ∧ ∀ off v, i ≠ .rxWrite off v) ∧
    (∃ i s t off v, exec i s = .next t ∧ i = .rxWrite off v) ∧
    (∃ i s t, exec i s = .next t ∧ bundleImage i = none ∧ (∀ now, i ≠ .txFlush now) ∧ ∀ len now q, i ≠ .poll len now q) :=
  ⟨⟨.rxCommit 256, holding 0 [] [] [], _, rfl, by simp⟩, ⟨.rxWrite 1 0x5A, holding 0 [] [] [], _, 1, 0x5A, rfl, rfl⟩,
    ⟨.rxWrite 0 0x5A, holding 0 [] [] [], _, rfl, rfl, by simp, by simp⟩⟩

theorem witness_RxLoadFillsTheReceiveSlot : ∀ n ∈ [1, 256], (holding 0 [] [] []).Sound ∧
    List.replicate n (0x5A : Byte) ≠ [] ∧ (List.replicate n (0x5A : Byte)).length ≤ 256 := by
  intro n hn
  rw [List.length_replicate]
  simp only [List.mem_cons, List.not_mem_nil, or_false] at hn
  refine ⟨holding_sound _ _ _ _, fun h => ?_, by omega⟩
  have := congrArg List.length h
  rw [List.length_replicate, List.length_nil] at this
  omega

theorem witness_RxDecodeAnswersByTheThreeConditions : (4 : Len).toNat < vecCfg.minFrameLen.toNat ∧ 256 < (257 : Len).toNat ∧
    (∀ len ∈ [(5 : Len), 8, 256], vecCfg.minFrameLen.toNat ≤ len.toNat ∧ len.toNat ≤ 256) ∧ (holding 0 frameF [] []).Sound :=
  ⟨by decide, by decide, by decide, holding_sound _ _ _ _⟩

/-- The feedback frame of V-TX: a peer, no control frame ever, `now = 100`. -/
def feedbackOf100 : List Byte := [0x66, 0x02, 0x01, 0x10, 0x00, 0x00, 0x3F, 0x70]

/-- A state in which a peer is known and no control frame was ever accepted. -/
def peerKnown : State := { holding 0 [] [] [] with peer := 5, peerValid := true }

theorem peerKnown_sound : peerKnown.Sound :=
  ⟨vecCfg_legal, memOf_wf _, memOf_wf _, memOf_wf _, by decide, by decide, by decide, by decide, by decide, by decide,
    by decide⟩

/-- A step that emits the frame, with the other hypotheses of `SentFramesAreAccepted`. -/
theorem sent_frame_witness {i : Instr} {s : State} {evs : List Event} {q : Peer} {frame : List Byte} (hs : s.Sound)
    (he : s.events = []) (hc : s.cfg = vecCfg) (hin : .txFrame q frame ∈ evs) (hl : 5 ≤ frame.length)
    (hr : (memOf frame).readBytes 0 frame.length = some frame)
    (h : (match exec i s with
      | .next t => t.events
      | _ => []) = evs) : ∃ (t u : State) (new : List Event), s.Sound ∧ exec i s = .next t ∧ t.events = s.events ++ new ∧
        .txFrame q frame ∈ new ∧ u.cfg.protocolVersion = s.cfg.protocolVersion ∧ u.cfg.crcTable = s.cfg.crcTable ∧
        u.cfg.minFrameLen.toNat ≤ frame.length ∧ u.rxb.readBytes 0 frame.length = some frame := by
  have hne : evs ≠ [] := fun e => by rw [e] at hin; cases hin
  have hx : (holding 0 frame [] []).rxb = memOf frame := by
    simp [holding, State.rxb, State.receiveSpace, slotSpace, State.mem]
  cases ht : exec i s with
  | next t =>
    rw [ht] at h
    exact ⟨t, holding 0 frame [] [], evs, hs, rfl, by rw [he]; exact h, hin, by rw [hc]; rfl, by rw [hc]; rfl, hl, by rw [hx]; exact hr⟩
  | fault r => rw [ht] at h; exact absurd h.symm hne
  | refused r => rw [ht] at h; exact absurd h.symm hne

/-- The frame that `POLL` of `F` at 600 sends (V-POLL). -/
def feedbackOf600 : List Byte := [0x66, 0x02, 0x01, 0x10, 0xFF, 0x00, 0xCF, 0x31]

/-- One frame sent by `TX.FLUSH`, and one sent by `POLL` after a strobe. -/
theorem witness_SentFramesAreAccepted : ∀ c ∈ [(Instr.txFlush 100, peerKnown, feedbackOf100),
    (.poll 8 600 5, holding 0 frameF [] [], feedbackOf600)], ∃ (t u : State) (new : List Event), c.2.1.Sound ∧
      exec c.1 c.2.1 = .next t ∧ t.events = c.2.1.events ++ new ∧ .txFrame 5 c.2.2 ∈ new ∧
      u.cfg.protocolVersion = c.2.1.cfg.protocolVersion ∧ u.cfg.crcTable = c.2.1.cfg.crcTable ∧
      u.cfg.minFrameLen.toNat ≤ c.2.2.length ∧ u.rxb.readBytes 0 c.2.2.length = some c.2.2 := by
  intro c hc
  simp only [List.mem_cons, List.not_mem_nil, or_false] at hc
  rcases hc with rfl | rfl
  · exact sent_frame_witness (evs := [.txFrame 5 feedbackOf100]) peerKnown_sound rfl rfl (by simp) (by decide) rfl
      (by decide +kernel)
  · exact sent_frame_witness (evs := [.ctrlStrobe, .txFrame 5 feedbackOf600]) (holding_sound _ _ _ _) rfl rfl (by simp)
      (by decide) rfl (by decide +kernel)

theorem witness_LocateFollowsTheScanLoop : ¬ 254 + 2 < 256 ∧ 253 + 2 < 256 ∧ 3 + 2 < 23 ∧
    ∃ len bundleId, (memOf frameM).read 3 = some len ∧ (memOf frameM).read (3 + 1) = some bundleId :=
  ⟨by decide, by decide, by decide, 0x02, 0x10, rfl, rfl⟩

/-- A bundle whose length byte 0xFF gives 254 payload bytes, at offset 3 of a frame of 256 bytes: index 250 is at address
255, the last one; index 251 is at address 256. -/
def longBundle : State := { holding 0 [] [0x01, 0x02, 0xFF, 0xFF, 0x09] [] with activeSize := 256 }

theorem witness_BundleLookups : activeM.Sound ∧ locate 0x10 activeM = some (.found 3 1) ∧
    locate 0x12 activeM = some (.found 10 0) ∧ locate 0x14 activeM = some .notFound ∧
    locate 0x09 longBundle = some (.found 3 254) ∧ 250 < 254 ∧ 3 + 2 + 250 ≤ 255 ∧ 255 < 3 + 2 + 251 ∧ 254 ≤ 254 :=
  ⟨activeM_sound, by decide +kernel⟩

/-- The lookups' witness, for the three statements about them. -/
theorem witness_longBundle_sound : longBundle.Sound :=
  ⟨vecCfg_legal, memOf_wf _, memOf_wf _, memOf_wf _, by decide, by decide, by decide, by decide, by decide, by decide,
    by decide⟩

theorem witness_WellFormedFramesAreIndexed :
    (∀ b ∈ [Bundle.mk 0x10 [0xAA], ⟨0x11, [0xBB, 0xCC]⟩, ⟨0x12, []⟩, ⟨0x10, [0xDD]⟩, ⟨0x13, [1, 2, 3, 4]⟩],
      b.wellFormed = true) ∧
    activeM.activeSize.toNat = (bundleRegion [Bundle.mk 0x10 [0xAA], ⟨0x11, [0xBB, 0xCC]⟩, ⟨0x12, []⟩, ⟨0x10, [0xDD]⟩,
      ⟨0x13, [1, 2, 3, 4]⟩]).length + 5 ∧ activeM.activeSize.toNat ≤ 256 ∧
    activeM.act.readBytes 3 18 = some (bundleRegion [Bundle.mk 0x10 [0xAA], ⟨0x11, [0xBB, 0xCC]⟩, ⟨0x12, []⟩,
      ⟨0x10, [0xDD]⟩, ⟨0x13, [1, 2, 3, 4]⟩]) := by decide +kernel

theorem witness_ConsumersSeeTheActiveFrameOnly : consumerRow (.actRead 0) = true ∧
    ∃ s s' t t' : State, s.rxb ≠ s'.rxb ∧ s'.activeSel = s.activeSel ∧ s'.activeSize = s.activeSize ∧ s'.act = s.act ∧
      exec (.actRead 0) s = .next t ∧ exec (.actRead 0) s' = .next t' := by
  refine ⟨rfl, holding 0 frameF [] [], holding 0 frameM [] [], _, _, ?_, rfl, rfl, rfl, rfl, rfl⟩
  intro h
  have := congrArg (fun m => Memory.read m 5) h
  revert this
  decide

/-- An accepted control frame in a `POLL`: it runs, and its status is `OK`. -/
theorem poll_frameF : ∃ t, exec (.poll 8 600 5) (holding 0 frameF [] []) = .next t ∧ statusOf t = some .ok ∧
    t.act.read 0 = some 0x01 ∧ t.enabled = true ∧ t.lastCtrlTs = 600 ∧ t.ctrlSeen = true ∧ t.peerValid = true := by
  have h : (match exec (.poll 8 600 5) (holding 0 frameF [] []) with
      | .next t => decide (statusOf t = some .ok ∧ t.act.read 0 = some 0x01 ∧ t.enabled = true ∧ t.lastCtrlTs = 600 ∧
          t.ctrlSeen = true ∧ t.peerValid = true)
      | _ => false) = true := by decide +kernel
  cases ht : exec (.poll 8 600 5) (holding 0 frameF [] []) with
  | next t => rw [ht] at h; exact ⟨t, rfl, of_decide_eq_true h⟩
  | fault r => rw [ht] at h; cases h
  | refused r => rw [ht] at h; cases h

/-- For `OnlyAcceptedControlFramesRefresh`, `EnabledIsSampledByEveryPoll`, `OperationsEmitAtMostOneFrame`,
`ConfigurationAndStartTimeAreConstant` and `SeenFlagsNeverFall`, whose hypothesis is that the operation answers: a `POLL` that
accepts, one that does not, and an operation that is none. -/
theorem witness_exec_answers :
    (∃ t, exec (.poll 8 600 5) (holding 0 frameF [] []) = .next t) ∧
    (∃ t, exec (.poll 4 600 5) (answering 0 500) = .next t) ∧
    (∃ t, exec (.txAppend8 1 1) (answering 0 500) = .next t) ∧
    (answering 0 500).peerValid = true ∧ (answering 0 500).ctrlSeen = true :=
  ⟨let ⟨t, h, _⟩ := poll_frameF; ⟨t, h⟩, ⟨_, rfl⟩, ⟨_, rfl⟩, rfl, rfl⟩

theorem witness_EnabledRisesOnlyOnRecentControl : ∃ s t : State, step s = .next t ∧ s.enabled = false ∧ t.enabled = true := by
  refine ⟨{ holding 0 frameF [] [] with inputs := [pollPorts] }, ?_⟩
  obtain ⟨t, h, -, -, he, -⟩ := poll_frameF
  exact ⟨t, h, rfl, he⟩

theorem witness_Append8WritesThreeBytes :
    ({ holding 0 [] [] [] with txPending := true } : State).txPending = true ∧ vecCfg.hwmU8.toNat ≤ (252 : Len).toNat ∧
    (holding 0 [] [] []).txPending = false ∧ (251 : Len).toNat < vecCfg.hwmU8.toNat ∧ vecCfg.legal ∧
    (holding 0 [] [] []).txbuf.wf :=
  ⟨rfl, by decide, rfl, by decide, vecCfg_legal, memOf_wf _⟩

theorem witness_Append16WritesFourBytes :
    ({ holding 0 [] [] [] with txPending := true } : State).txPending = true ∧ 251 ≤ (251 : Len).toNat ∧
    (holding 0 [] [] []).txPending = false ∧ (250 : Len).toNat < 251 ∧ (holding 0 [] [] []).txbuf.wf :=
  ⟨rfl, by decide, rfl, by decide, memOf_wf _⟩

theorem witness_Append32WritesSixBytes :
    ({ holding 0 [] [] [] with txPending := true } : State).txPending = true ∧ vecCfg.hwmI32.toNat ≤ (249 : Len).toNat ∧
    (holding 0 [] [] []).txPending = false ∧ (248 : Len).toNat < vecCfg.hwmI32.toNat ∧ vecCfg.legal ∧
    (holding 0 [] [] []).txbuf.wf :=
  ⟨rfl, by decide, rfl, by decide, vecCfg_legal, memOf_wf _⟩

theorem witness_WireBundlesAppendTheirBytes :
    encode (.bundleU8 1 2) = .wire [0x02, 1, 2] ∧ encode (.bundleU16 1 2) = .wire [0x03, 1, 0, 2] ∧
    encode (.bundleI32 1 2) = .wire [0x05, 1, 0, 0, 0, 2] ∧ (holding 0 [] [] []).txbuf.wf ∧
    vecCfg.legal ∧ markOf vecCfg (.bundleU8 1 2) = some 252 ∧ markOf vecCfg (.bundleU16 1 2) = some 251 ∧
    markOf vecCfg (.bundleI32 1 2) = some 249 ∧ (holding 0 [] [] []).txPending = false ∧ (251 : Len).toNat < 252 ∧
    (250 : Len).toNat < 251 ∧ (248 : Len).toNat < 249 ∧ 252 ≤ (252 : Len).toNat ∧ 251 ≤ (251 : Len).toNat ∧
    249 ≤ (249 : Len).toNat :=
  ⟨rfl, rfl, rfl, memOf_wf _, by decide⟩

/-- An empty `TXBUF` with the cursor at `c`. -/
def cursorAt (c : Len) : State := { holding 0 [] [] [] with txCursor := c }

theorem witness_AppendsTakeEffectWhenTheFrameStillFits : ∀ cursor ∈ [(251 : Len), 252], ∃ t,
    bundleImage (.txAppend8 1 2) = some [0x02, 1, 2] ∧ (cursorAt cursor).cfg.hwmU8 = 252 ∧
    (cursorAt cursor).cfg.hwmI32 = 249 ∧
    exec (.txAppend8 1 2) (cursorAt cursor) = .next t := by
  intro cursor h
  simp only [List.mem_cons, List.not_mem_nil, or_false] at h
  rcases h with rfl | rfl
  · obtain ⟨m, hm⟩ := writeBytes_of_wf (m := memOf []) (memOf_wf _) (a := 251) (bs := bundleBytesU8 1 2) (by decide)
    have h : appendBundle 252 (bundleBytesU8 1 2) (cursorAt 251) = _ := appendBundle_accepted rfl (by decide) hm
    exact ⟨_, rfl, rfl, rfl, h⟩
  · have h : appendBundle 252 (bundleBytesU8 1 2) (cursorAt 252) = _ := appendBundle_dropped (.inr (by decide))
    exact ⟨_, rfl, rfl, rfl, h⟩

theorem witness_SixtyTwoAppends16Fit : (holding 0 [] [] []).txbuf.wf ∧ (holding 0 [] [] []).txCursor = 6 ∧
    (holding 0 [] [] []).txPending = false ∧ List.replicate 63 ((1 : Byte), (1 : Half)) ≠ [] :=
  ⟨memOf_wf _, rfl, rfl, by simp⟩

theorem witness_FlushWithoutPeerChangesNothing : (holding 0 [] [] []).peerValid = false := rfl

theorem witness_FlushSendsTheFrame : peerKnown.Sound ∧ peerKnown.peerValid = true ∧
    ({ peerKnown with txCursor := 254 } : State).Sound :=
  ⟨peerKnown_sound, rfl, vecCfg_legal, memOf_wf _, memOf_wf _, memOf_wf _, by decide, by decide, by decide, by decide, by decide, by decide,
    by decide⟩

theorem witness_StepKeepsWholeBundles : ∃ s t : State, s.Sound ∧ s.WholeBundles ∧ step s = .next t ∧ t.txCursor = 9 :=
  ⟨{ holding 0 [] [] [] with inputs := [{ Ports.blank with op := 0b01100#5 }] }, _,
    ⟨vecCfg_legal, memOf_wf _, memOf_wf _, memOf_wf _, by decide, by decide, by decide, by decide, by decide, by decide,
    by decide⟩, ⟨[], [], rfl, rfl⟩, rfl, rfl⟩

/-- The enable function at ages 250 and 251 and at uptimes 500 and 501, for both clauses. -/
theorem witness_PollWithoutAcceptedFrameSamplesEnable :
    enabledAt 32 0 600 true 850 = true ∧ enabledAt 32 0 600 true 851 = false ∧ enabledAt 32 0 500 true 500 = false ∧
    enabledAt 32 0 500 true 501 = true ∧ (0 : Len) = 0 ∧ ∀ len ∈ [(4 : Len), 257], len ≠ 0 ∧
      exec (.rxDecode len) (answering 0 600) = .next (answered (answering 0 600) .rejected 0 0) := by
  refine ⟨by decide, by decide, by decide, by decide, rfl, ?_⟩
  intro len h
  simp only [List.mem_cons, List.not_mem_nil, or_false] at h
  rcases h with rfl | rfl <;> exact ⟨by decide, rfl⟩

theorem witness_PollAcceptsAndReplies : (holding 0 frameF [] []).Sound ∧ (0 : Len) = 0 ∧ (4 : Len) ≠ 0 ∧
    exec (.rxDecode 4) (holding 0 frameF [] []) = .next (answered (holding 0 frameF [] []) .rejected 0 0) ∧
    exec (.rxDecode 8) (holding 0 frameF [] []) = .next (answered (holding 0 frameF [] []) .ok 0 0) :=
  ⟨holding_sound _ _ _ _, rfl, by decide, rfl, decode_frameF _ _ _⟩

theorem witness_ReservedOpCodesAnswerIllegal : (0b00000#5).toNat = 0 ∧ 0x14 ≤ (0b10100#5).toNat ∧
    0x14 ≤ (0b11111#5).toNat := by decide

/-- For `IllegalExactlyForMalformedCommands` and `NonOkStatusesChangeNothing`: a malformed command, a dropped append, an
accepted one and a `POLL` that returns `NO_DATA`. -/
theorem witness_statuses :
    (∃ t, exec (.crc16 3 0) (holding 0 [] [] []) = .next t ∧ t.result = some ⟨.illegal, 0, 0⟩) ∧
    (∃ t, exec (.txAppend8 1 1) { holding 0 [] [] [] with txPending := true } = .next t ∧
      t.result = some ⟨.dropped, 0, 6⟩) ∧
    (∃ t, exec (.txAppend8 1 1) (holding 0 [] [] []) = .next t ∧ t.result = some ⟨.ok, 0, 9⟩) ∧
    (∃ t, exec (.poll 0 850 5) (answering 0 600) = .next t ∧ t.result = some ⟨.noData, 1, 0⟩) ∧
    Status.dropped ≠ .ok :=
  ⟨⟨_, rfl, rfl⟩, ⟨_, rfl, rfl⟩, ⟨_, rfl, rfl⟩, ⟨_, rfl, rfl⟩, by decide⟩

theorem witness_ActiveFrameStaysValidWithoutBareCommits : ∃ s t : State, s.Sound ∧ s.ActiveFrameValid ∧ step s = .next t ∧
    (∀ p rest len, s.inputs = p :: rest → p.rst = false → p.cmdValid = true →
      decode (.command p) ≠ .ok (.rxCommit len)) ∧ t.activeSize = 8 := by
  obtain ⟨t, h, hs, -⟩ := poll_frameF
  refine ⟨{ holding 0 frameF [] [] with inputs := [pollPorts] }, t,
    ⟨vecCfg_legal, memOf_wf _, memOf_wf _, memOf_wf _, by decide, by decide, by decide, by decide, by decide, by decide,
    by decide⟩, .inl rfl, h, ?_, ?_⟩
  · intro p rest len hin _ _
    cases hin
    exact fun h => by cases h
  · cases exec_effect h with
    | answers r hi => exact absurd rfl (hi _ _ _)
    | appends hwm bytes m hi => cases hi
    | polls _ _ _ st hst => rcases hst with rfl | rfl <;> cases hs
    | accepts _ _ _ b n u hok hb hf =>
      obtain ⟨m, bundles, -, -, -, -, hr⟩ := flush_spec hf (by simp) (by simp [holding])
      cases hr
      exact accepted_activeSize _ _ _ _ _

theorem witness_ResetMeetsTheInvariants : vecCfg.legal ∧ { vecCfg with timeW := 16, hwmU8 := 100 }.legal := by decide

theorem witness_StepKeepsTheInvariants : ∃ s t : State, s.Sound ∧ step s = .next t ∧ t.activeSel = 1 :=
  ⟨{ holding 0 [] [] [] with inputs := [{ Ports.blank with op := 0b00101#5, len := 256 }] }, _,
    ⟨vecCfg_legal, memOf_wf _, memOf_wf _, memOf_wf _, by decide, by decide, by decide, by decide, by decide, by decide,
    by decide⟩, rfl, rfl⟩

end Sys2Proof.Tests
end

/-! SUPPORT and PROOFS, family `10_state.md`: what a flush leaves with no assumption on the cursor, the invariants of R35
under each named update of a state, and from these the five statements. -/

namespace Sys2Proof.Machine

open Sys2Proof

/-! ## Fields of the states that a flush, an append and an accepted `POLL` leave -/

@[simp] theorem flushed_cfg (s : State) (m : Memory) (bs : List Byte) : (flushed s m bs).cfg = s.cfg := rfl
@[simp] theorem flushed_act (s : State) (m : Memory) (bs : List Byte) : (flushed s m bs).act = s.act := act_congr rfl rfl rfl
@[simp] theorem flushed_activeSize (s : State) (m : Memory) (bs : List Byte) : (flushed s m bs).activeSize = s.activeSize := rfl
@[simp] theorem flushed_peerValid (s : State) (m : Memory) (bs : List Byte) : (flushed s m bs).peerValid = s.peerValid := rfl
@[simp] theorem flushed_startTs (s : State) (m : Memory) (bs : List Byte) : (flushed s m bs).startTs = s.startTs := rfl
@[simp] theorem flushed_ctrlSeen (s : State) (m : Memory) (bs : List Byte) : (flushed s m bs).ctrlSeen = s.ctrlSeen := rfl
@[simp] theorem flushed_txCursor (s : State) (m : Memory) (bs : List Byte) : (flushed s m bs).txCursor = 6 := rfl
@[simp] theorem flushed_inputs (s : State) (m : Memory) (bs : List Byte) : (flushed s m bs).inputs = s.inputs := rfl
@[simp] theorem flushed_resets (s : State) (m : Memory) (bs : List Byte) : (flushed s m bs).resets = s.resets := rfl

@[simp] theorem appended_act (s : State) (m : Memory) (n : Nat) : (appended s m n).act = s.act := act_congr rfl rfl rfl

@[simp] theorem answer_act (s : State) (st : Status) (a : Half) (b : Len) : (s.answer st a b).act = s.act := rfl
@[simp] theorem endPoll_act (s : State) (st : Status) (c : Bool) (n : Len) (now : Time) :
    (endPoll st c n now s).act = s.act := rfl

@[simp] theorem accepted_inputs (len : Len) (now : Time) (q : Peer) (c : Bool) (s : State) :
    (accepted len now q c s).inputs = s.inputs := by cases c <;> rfl
@[simp] theorem accepted_resets (len : Len) (now : Time) (q : Peer) (c : Bool) (s : State) :
    (accepted len now q c s).resets = s.resets := by cases c <;> rfl

/-- The cursor after an append does not wrap while it stays within its 9 bits. -/
theorem appended_txCursor_toNat {s : State} {n : Nat} (m : Memory) (h : s.txCursor.toNat + n < 512) :
    (appended s m n).txCursor.toNat = s.txCursor.toNat + n := by
  simp only [appended, BitVec.toNat_add, BitVec.toNat_ofNat]
  omega

/-- R165: a legal mark leaves room for its bundle and the two CRC bytes in the 256 bytes of `TXBUF`. -/
theorem appendOf_room {cfg : Config} (hcfg : cfg.legal) {i : Instr} {hwm : Nat} {bytes : List Byte}
    (h : appendOf cfg i = some (hwm, bytes)) : hwm + bytes.length ≤ 255 := by
  obtain ⟨-, h8, h32⟩ := hcfg
  cases i with
  | txAppend8 | txAppend16 | txAppend32 | bundleU8 | bundleU16 | bundleI32 =>
    cases h
    simp only [bundleBytesU8_length, bundleBytesU16_length, bundleBytesI32_length]
    omega
  | _ => cases h

/-! ## What a flush leaves, wherever the cursor stands -/

theorem encodeFrame_keys {now : Time} {s t : State} (h : encodeFrame now s = some t) :
    ∃ m, m.map Prod.fst = s.txbuf.map Prod.fst ∧ t = { s with txbuf := m } := by
  simp only [encodeFrame, Option.bind_eq_some_iff, Option.map_eq_some_iff] at h
  obtain ⟨m₁, h₁, covered, -, m₂, h₂, rfl⟩ := h
  exact ⟨m₂, (writeBytes_keys h₂).trans (writeBytes_keys h₁), rfl⟩

/-- `flush_spec` says which frame is sent and needs the cursor at or above the header; this needs nothing of the cursor. -/
theorem flush_sent_eq_flushed {now : Time} {s t : State} {n : Len} (h : flush now s = some (.sent n, t)) :
    ∃ m bytes, m.map Prod.fst = s.txbuf.map Prod.fst ∧ t = flushed s m bytes := by
  by_cases hp : s.peerValid = true
  · rw [flush, if_pos hp, Option.bind_eq_some_iff] at h
    obtain ⟨u, hu, h⟩ := h
    obtain ⟨m, hk, rfl⟩ := encodeFrame_keys hu
    obtain ⟨bytes, -, h⟩ := Option.map_eq_some_iff.mp h
    cases h
    exact ⟨m, bytes, hk, rfl⟩
  · rw [flush_no_peer now (by simpa using hp)] at h
    cases h

/-! ## Fields that no operation writes, and flags that no operation clears (R27, R35 (d), R222) -/

theorem Effect.keeps_constants {i : Instr} {s t : State} (h : Effect s i t) :
    t.cfg = s.cfg ∧ t.startTs = s.startTs ∧ t.inputs = s.inputs ∧ t.resets = s.resets := by
  cases h with
  | answers | commits | appends | requests | polls => exact ⟨rfl, rfl, rfl, rfl⟩
  | stores => simp
  | flushes now n u hp hf =>
    obtain ⟨m, bytes, -, rfl⟩ := flush_sent_eq_flushed hf
    simp
  | accepts len now q b n u hok hb hf =>
    obtain ⟨m, bytes, -, rfl⟩ := flush_sent_eq_flushed hf
    simp

theorem Effect.keeps_seenFlags {i : Instr} {s t : State} (h : Effect s i t) :
    (s.peerValid = true → t.peerValid = true) ∧ (s.ctrlSeen = true → t.ctrlSeen = true) := by
  cases h with
  | answers | commits | appends | requests | polls => exact ⟨id, id⟩
  | stores => simp
  | flushes now n u hp hf =>
    obtain ⟨m, bytes, -, rfl⟩ := flush_sent_eq_flushed hf
    simp
  | accepts len now q b n u hok hb hf =>
    obtain ⟨m, bytes, -, rfl⟩ := flush_sent_eq_flushed hf
    simp +contextual [accepted_ctrlSeen]

/-! ## The active frame (R35 (f)) -/

theorem State.ActiveFrameValid.congr {s t : State} (hs : s.ActiveFrameValid) (hcfg : t.cfg = s.cfg)
    (hact : t.act = s.act) (hsize : t.activeSize = s.activeSize) : t.ActiveFrameValid := by
  rwa [State.ActiveFrameValid, hcfg, hact, hsize]

/-- Only the two commits move the active slot, and that of a `POLL` follows `decode_ok`. -/
theorem Effect.keeps_activeFrameValid {i : Instr} {s t : State} (h : Effect s i t) (hi : ∀ len, i ≠ .rxCommit len)
    (hs : s.ActiveFrameValid) : t.ActiveFrameValid := by
  cases h with
  | answers | requests | polls => exact hs.congr rfl rfl rfl
  | appends hwm bytes m => exact hs.congr rfl (appended_act s m _) rfl
  | stores off v m => exact hs.congr (by simp) (setMem_receive_act s m) (by simp)
  | commits len => exact absurd rfl (hi len)
  | flushes now n u hp hf =>
    obtain ⟨m, bytes, -, rfl⟩ := flush_sent_eq_flushed hf
    exact hs.congr rfl (flushed_act s m bytes) rfl
  | accepts len now q b n u hok hb hf =>
    obtain ⟨m, bytes, -, rfl⟩ := flush_sent_eq_flushed hf
    exact .inr (by simpa using hok)

/-! ## The invariants under each update (R35 (a), (b), (e)) -/

theorem State.Sound.with_result {s : State} (h : s.Sound) (r : Option Result) : { s with result := r }.Sound := { h with }

theorem State.Sound.with_inputs {s : State} (h : s.Sound) (ins : List Ports) : { s with inputs := ins }.Sound := { h with }

theorem State.Sound.answer {s : State} (h : s.Sound) (st : Status) (a : Half) (b : Len) : (s.answer st a b).Sound :=
  h.with_result _

theorem State.Sound.with_txPending {s : State} (h : s.Sound) (b : Bool) : { s with txPending := b }.Sound := { h with }

theorem State.Sound.endPoll {s : State} (h : s.Sound) (st : Status) (c : Bool) (n : Len) (now : Time) :
    (endPoll st c n now s).Sound := { h with }

theorem State.Sound.setMem {s : State} (h : s.Sound) (k : Space) {m : Memory} (hm : m.wf) : (s.setMem k m).Sound := by
  cases k with
  | buf0 => exact { h with buf0 := hm }
  | buf1 => exact { h with buf1 := hm }
  | txbuf => exact { h with txbuf := hm }

theorem State.Sound.commit {s : State} (h : s.Sound) {len : Len} (hl : len.toNat ≤ 256) : (s.commit len).Sound :=
  { h with size := hl }

theorem State.Sound.appended {s : State} (h : s.Sound) {m : Memory} (hm : m.wf) {n : Nat}
    (hn : s.txCursor.toNat + n ≤ 254) : (appended s m n).Sound := by
  have hlow := h.cursorLow
  have hcur := appended_txCursor_toNat (s := s) m (n := n) (by omega)
  exact { h with txbuf := hm, cursorLow := by omega, cursorHigh := by omega }

theorem State.Sound.flushed {s : State} (h : s.Sound) {m : Memory} (hm : m.map Prod.fst = s.txbuf.map Prod.fst)
    (bytes : List Byte) : (flushed s m bytes).Sound :=
  { h with txbuf := hm.trans h.txbuf, cursorLow := by simp, cursorHigh := by simp }

theorem State.Sound.acceptFrame {s : State} (h : s.Sound) {len : Len} (hl : len.toNat ≤ 256) (q : Peer) :
    (acceptFrame len q s).Sound :=
  { h with size := hl, peer := fun _ => rfl, peerWidth := clipPeer_lt _ _ }

theorem State.Sound.acceptControl {s : State} (h : s.Sound) (hp : s.peerValid = true) (now : Time) :
    (acceptControl now s).Sound :=
  { h with peer := fun _ => hp, lastWidth := clipTime_lt _ _ }

theorem State.Sound.accepted {s : State} (h : s.Sound) {len : Len} (hl : len.toNat ≤ 256) (now : Time) (q : Peer)
    (c : Bool) : (accepted len now q c s).Sound := by
  cases c with
  | false => exact h.acceptFrame hl q
  | true => exact (h.acceptFrame hl q).acceptControl rfl now

theorem Effect.keeps_sound {i : Instr} {s t : State} (h : Effect s i t) (hs : s.Sound) : t.Sound := by
  cases h with
  | answers r => exact hs.with_result _
  | stores off v m hm => exact (hs.setMem _ (write_wf hm (rxb_wf hs.buf0 hs.buf1))).answer _ _ _
  | commits len hl => exact (hs.commit hl).answer _ _ _
  | appends hwm bytes m hi hp hc hm =>
    have hroom := appendOf_room hs.cfg hi
    exact hs.appended (writeBytes_wf hm hs.txbuf) (by omega)
  | requests => exact (hs.with_txPending _).answer _ _ _
  | flushes now n u hp hf =>
    obtain ⟨m, bytes, hk, rfl⟩ := flush_sent_eq_flushed hf
    exact (hs.flushed hk bytes).answer _ _ _
  | polls => exact hs.endPoll _ _ _ _
  | accepts len now q b n u hok hb hf =>
    obtain ⟨-, hl⟩ := frameOk_true_range hok
    obtain ⟨m, bytes, hk, rfl⟩ := flush_sent_eq_flushed hf
    exact ((hs.accepted hl now q _).flushed hk bytes).endPoll _ _ _ _

/-! ## The states after reset (R220) -/

theorem afterReset_sound {cfg : Config} (hcfg : cfg.legal) (n : Nat) (t : Time) (ins : List Ports) (evs : List Event) :
    (State.afterReset cfg n t ins evs).Sound where
  cfg := hcfg
  buf0 := freshMemory_wf n .buf0
  buf1 := freshMemory_wf n .buf1
  txbuf := freshMemory_wf n .txbuf
  size := by simp
  cursorLow := by simp
  cursorHigh := by simp
  peer := by simp
  peerWidth := clipPeer_lt _ _
  startWidth := clipTime_lt _ _
  lastWidth := clipTime_lt _ _

/-- With the cursor at the header there are no bundles yet. -/
theorem afterReset_wholeBundles (cfg : Config) (n : Nat) (t : Time) (ins : List Ports) (evs : List Event) :
    (State.afterReset cfg n t ins evs).WholeBundles :=
  ⟨[], [], rfl, by simp⟩

theorem afterReset_activeFrameValid (cfg : Config) (n : Nat) (t : Time) (ins : List Ports) (evs : List Event) :
    (State.afterReset cfg n t ins evs).ActiveFrameValid := .inl rfl

theorem deployed_legal : Config.deployed.legal := by decide

/-! ## The statements -/

/-- Settles O57: the invariant is a property of what an operation does, and a reset empties the active frame. -/
theorem activeFrameStaysValidWithoutBareCommits : Obligations.ActiveFrameStaysValidWithoutBareCommits := by
  intro s t _ hv h hno
  obtain ⟨-, rfl⟩ | ⟨p, rest, hin, ⟨-, rfl⟩ | ⟨hr, hc, he⟩ | ⟨-, -, rfl⟩⟩ := step_cases h
  · exact hv.congr rfl rfl rfl
  · exact afterReset_activeFrameValid _ _ _ _ _
  · have hne : ∀ len, decodeCommand p ≠ .rxCommit len := fun len e =>
      hno p rest len hin hr hc (congrArg Except.ok e)
    exact (exec_effect he).keeps_activeFrameValid hne (hv.congr rfl rfl rfl)
  · exact hv.congr rfl rfl rfl

/-- Settles O58: each update keeps the invariants, and a reset meets them. -/
theorem stepKeepsTheInvariants : Obligations.StepKeepsTheInvariants := by
  intro s t hs h
  obtain ⟨-, rfl⟩ | ⟨p, rest, -, ⟨-, rfl⟩ | ⟨-, -, he⟩ | ⟨-, -, rfl⟩⟩ := step_cases h
  · exact hs.with_result _
  · exact afterReset_sound hs.cfg _ _ _ _
  · exact (exec_effect he).keeps_sound (hs.with_inputs rest)
  · exact (hs.with_inputs rest).with_result _

/-- Settles O55: no effect of an operation clears either flag; an accepted `POLL` sets them. -/
theorem seenFlagsNeverFall : Obligations.SeenFlagsNeverFall :=
  fun _ _ _ h => (exec_effect h).keeps_seenFlags

/-- Settles O56: no effect of an operation writes one of the four fields. -/
theorem configurationAndStartTimeAreConstant : Obligations.ConfigurationAndStartTimeAreConstant :=
  fun _ _ _ h => (exec_effect h).keeps_constants

/-- Settles O59: `State.reset` is the reset of the deployed configuration, which is legal. -/
theorem resetMeetsTheInvariants : Obligations.ResetMeetsTheInvariants := by
  have hreset : ∀ (cfg : Config) (n : Nat) (t : Time) (ins : List Ports) (evs : List Event), cfg.legal →
      (State.afterReset cfg n t ins evs).Sound ∧ (State.afterReset cfg n t ins evs).WholeBundles ∧
      (State.afterReset cfg n t ins evs).ActiveFrameValid := fun cfg n t ins evs hcfg =>
    ⟨afterReset_sound hcfg n t ins evs, afterReset_wholeBundles cfg n t ins evs,
      afterReset_activeFrameValid cfg n t ins evs⟩
  exact ⟨hreset, hreset _ _ _ _ _ deployed_legal⟩

end Sys2Proof.Machine

/-! SUPPORT and PROOFS, family `20_memory.md`: which effect of an operation writes which memory (R51), and that the results of
the consumer rows are a function of the active frame (R51, R125). -/

namespace Sys2Proof.Machine

open Sys2Proof Sys2Proof.Claims

/-! ## The memories that an operation leaves as they are (R51) -/

@[simp] theorem flushed_buf0 (s : State) (m : Memory) (bs : List Byte) : (flushed s m bs).buf0 = s.buf0 := rfl
@[simp] theorem flushed_buf1 (s : State) (m : Memory) (bs : List Byte) : (flushed s m bs).buf1 = s.buf1 := rfl

/-- A commit exchanges the roles of the two buffers and copies no byte (R142), so a store alone is left to write one. -/
theorem Effect.keeps_buffers {i : Instr} {s t : State} (h : Effect s i t) (hi : ∀ off v, i ≠ .rxWrite off v) :
    t.buf0 = s.buf0 ∧ t.buf1 = s.buf1 := by
  cases h with
  | stores off v => exact absurd rfl (hi off v)
  | answers | commits | appends | requests | polls => exact ⟨rfl, rfl⟩
  | flushes now n u hp hf =>
    obtain ⟨m, bytes, -, rfl⟩ := flush_sent_eq_flushed hf
    simp
  | accepts len now q b n u hok hb hf =>
    obtain ⟨m, bytes, -, rfl⟩ := flush_sent_eq_flushed hf
    simp

theorem Effect.rxWrite_keeps_act {off v : Byte} {s t : State} (h : Effect s (.rxWrite off v) t) : t.act = s.act := by
  cases h with
  | answers => rfl
  | stores off v m => exact setMem_receive_act s m
  | appends hwm bytes m hi => cases hi

/-- The rows that append are the rows whose bytes the statements write out. -/
theorem appendOf_eq_none {i : Instr} (h : bundleImage i = none) (cfg : Config) : appendOf cfg i = none := by
  cases i with
  | txAppend8 | txAppend16 | txAppend32 | bundleU8 | bundleU16 | bundleI32 => cases h
  | _ => rfl

theorem Effect.keeps_txbuf {i : Instr} {s t : State} (h : Effect s i t) (happ : bundleImage i = none)
    (hflush : ∀ now, i ≠ .txFlush now) (hpoll : ∀ len now q, i ≠ .poll len now q) : t.txbuf = s.txbuf := by
  cases h with
  | answers | commits | requests => rfl
  | stores off v m => exact setMem_receive_txbuf s m
  | appends hwm bytes m hi => rw [appendOf_eq_none happ] at hi; cases hi
  | flushes now => exact absurd rfl (hflush now)
  | polls len now q | accepts len now q => exact absurd rfl (hpoll len now q)

/-! ## The results of the consumer rows (R51, R125) -/

/-- What the result ports show after an operation, none if it stopped with a fault. -/
def resultOf : Host.Outcome State Fault Refusal → Option Result
  | .next t => t.result
  | _ => none

@[simp] theorem resultOf_next (t : State) : resultOf (.next t) = t.result := rfl

theorem resultOf_access (o : Option State) : resultOf (access o) = o.bind State.result := by cases o <;> rfl

/-- Two states with the same active slot index, size and bytes: all that a consumer may see of a state. -/
structure SameActiveFrame (s s' : State) : Prop where
  sel : s'.activeSel = s.activeSel
  size : s'.activeSize = s.activeSize
  act : s'.act = s.act

section
variable {s s' : State}

theorem SameActiveFrame.locate_eq (h : SameActiveFrame s s') (id : Byte) : locate id s' = locate id s := by
  rw [locate, locate, h.act, h.size]

theorem SameActiveFrame.resultOf_actInfo (h : SameActiveFrame s s') : resultOf (execActInfo s') = resultOf (execActInfo s) := by
  simp [execActInfo, h.sel, h.size]

theorem SameActiveFrame.resultOf_actRead (h : SameActiveFrame s s') (off : Byte) :
    resultOf (execActRead off s') = resultOf (execActRead off s) := by
  rw [execActRead, execActRead, resultOf_access, resultOf_access, h.act]
  cases s.act.read off.toNat <;> rfl

theorem SameActiveFrame.resultOf_bndLocate (h : SameActiveFrame s s') (id : Byte) :
    resultOf (execBndLocate id s') = resultOf (execBndLocate id s) := by
  rw [execBndLocate, execBndLocate, resultOf_access, resultOf_access, h.locate_eq]
  rcases locate id s with _ | _ | _ <;> rfl

theorem SameActiveFrame.resultOf_bndSize (h : SameActiveFrame s s') (id : Byte) :
    resultOf (execBndSize id s') = resultOf (execBndSize id s) := by
  rw [execBndSize, execBndSize, resultOf_access, resultOf_access, h.locate_eq]
  rcases locate id s with _ | _ | _ <;> rfl

/-- The two guards of `BND.COMP` compare the operand with the bundle found, which is the same in both states. -/
theorem SameActiveFrame.resultOf_bndComp (h : SameActiveFrame s s') (id idx : Byte) :
    resultOf (execBndComp id idx s') = resultOf (execBndComp id idx s) := by
  rw [execBndComp, execBndComp, resultOf_access, resultOf_access, h.locate_eq, h.act]
  rcases locate id s with _ | _ | ⟨p, n⟩
  · rfl
  · rfl
  · simp only [Option.bind_some]
    split
    · rfl
    · split
      · rfl
      · cases s.act.read (p + 2 + idx.toNat) <;> rfl

/-- The results of a consumer row are a function of the active frame. -/
theorem SameActiveFrame.resultOf_exec (h : SameActiveFrame s s') {i : Instr} (hi : consumerRow i = true) :
    resultOf (exec i s') = resultOf (exec i s) := by
  cases i with
  | actInfo => exact h.resultOf_actInfo
  | actRead off => exact h.resultOf_actRead off
  | bndLocate id => exact h.resultOf_bndLocate id
  | bndComp id idx => exact h.resultOf_bndComp id idx
  | bndSize id => exact h.resultOf_bndSize id
  | _ => cases hi

end

/-! ## The statements -/

/-- Settles O23: of the effects of an operation, the store alone writes a packet buffer, and the receive slot is no part of
the active one; the appends and the flushes alone write `TXBUF`. -/
theorem whoWritesEachMemory : Obligations.WhoWritesEachMemory := by
  intro i s t h
  have he := exec_effect h
  refine ⟨he.keeps_buffers, fun off v hi => ?_, he.keeps_txbuf⟩
  subst hi
  exact he.rxWrite_keeps_act

/-- Settles O32: row by row, the results are computed from the active frame alone. -/
theorem consumersSeeTheActiveFrameOnly : Obligations.ConsumersSeeTheActiveFrameOnly := by
  intro i s s' t t' hi hsel hsize hact ht ht'
  have h := SameActiveFrame.resultOf_exec ⟨hsel, hsize, hact⟩ hi
  rwa [ht, ht', resultOf_next, resultOf_next] at h

end Sys2Proof.Machine

/-! SUPPORT and PROOFS, family `30_encoding.md`, the codec: decoding and encoding are inverse to each other, for the commands
on the ports their rows list (R80 to R83), for the wire bundles on their bytes (R74). -/

namespace Sys2Proof

/-! ## The operand slices of `val` (R83) -/

/-- The low bits of a widened value are the value. -/
theorem extractLsb'_setWidth_self {w n : Nat} (h : w ≤ n) (v : BitVec w) : (v.setWidth n).extractLsb' 0 w = v := by
  rw [BitVec.extractLsb'_setWidth_of_le (by omega), BitVec.extractLsb'_eq_self]

/-- R83: the bits that an append uses, back on the port, are `val` with the other bits zero. -/
theorem setWidth_extractLsb'_eq_and {w n : Nat} (h : w ≤ n) (v : BitVec n) :
    (v.extractLsb' 0 w).setWidth n = v &&& BitVec.ofNat n (2 ^ w - 1) := by
  have hw : 2 ^ w ≤ 2 ^ n := Nat.pow_le_pow_right (by decide) h
  have hpos := Nat.two_pow_pos w
  apply BitVec.eq_of_toNat_eq
  rw [BitVec.toNat_and, BitVec.toNat_setWidth, BitVec.extractLsb'_toNat, BitVec.toNat_ofNat,
    Nat.mod_eq_of_lt (by omega : 2 ^ w - 1 < 2 ^ n), Nat.and_two_pow_sub_one_eq_mod, Nat.shiftRight_zero]
  exact Nat.mod_eq_of_lt (Nat.lt_of_lt_of_le (Nat.mod_lt _ hpos) hw)

/-! ## Commands (R80 to R84) -/

@[simp] theorem decode_command (p : Ports) : decode (.command p) = .ok (decodeCommand p) := rfl

/-- The op code alone selects the row. -/
theorem decodeCommand_of_op {p : Ports} {op : BitVec 5} (h : p.op = op) :
    decodeCommand p = decodeCommand { p with op := op } := by
  subst h; rfl

/-- R83: `TX.APPEND8` and `TX.APPEND16` are the two rows that take a part of their port. -/
theorem encode_decodeCommand_txAppend8 {p : Ports} (h : p.op = 0b01100#5) :
    encode (decodeCommand p) = .command p.onlyListed := by
  have hval : (p.val.extractLsb' 0 8).setWidth 32 = p.val &&& 0x000000FF :=
    setWidth_extractLsb'_eq_and (by decide) p.val
  simp [decodeCommand, encode, Ports.onlyListed, h, hval]

theorem encode_decodeCommand_txAppend16 {p : Ports} (h : p.op = 0b01101#5) :
    encode (decodeCommand p) = .command p.onlyListed := by
  have hval : (p.val.extractLsb' 0 16).setWidth 32 = p.val &&& 0x0000FFFF :=
    setWidth_extractLsb'_eq_and (by decide) p.val
  simp [decodeCommand, encode, Ports.onlyListed, h, hval]

/-- R80: what a command decodes to holds exactly the ports its row lists. Every other row takes its ports whole. -/
theorem encode_decodeCommand (p : Ports) : encode (decodeCommand p) = .command p.onlyListed := by
  obtain ⟨rst, cmdValid, ⟨⟨op, hop⟩⟩, sel, id, idx, off, wdata, len, val, now, peerIn⟩ := p
  interval_cases op
  any_goals rfl
  · exact encode_decodeCommand_txAppend8 rfl
  · exact encode_decodeCommand_txAppend16 rfl

/-! ## Wire bundles (R74) -/

@[simp] theorem be16_beHalf (hi lo : Byte) : be16 (beHalf hi lo) = [hi, lo] := by simp [be16]

theorem decodeBundle_bundleBytesU8 (id v : Byte) (more : List Byte) :
    decodeBundle (bundleBytesU8 id v ++ more) = .ok (.bundleU8 id v, more) := rfl

theorem decodeBundle_bundleBytesU16 (id : Byte) (v : Half) (more : List Byte) :
    decodeBundle (bundleBytesU16 id v ++ more) = .ok (.bundleU16 id v, more) := by
  simp [decodeBundle, bundleBytesU16, be16]

theorem decodeBundle_bundleBytesI32 (id : Byte) (v : Word) (more : List Byte) :
    decodeBundle (bundleBytesI32 id v ++ more) = .ok (.bundleI32 id v, more) := by
  simp [decodeBundle, bundleBytesI32, be32]

/-- A bundle read off the front of the bytes is encoded by the bytes that were taken: the three branches that answer one take
exactly its bytes. -/
theorem decodeBundle_sound {bytes more : List Byte} {i : Instr} (h : decodeBundle bytes = .ok (i, more)) :
    ∃ bundle, encode i = .wire bundle ∧ bytes = bundle ++ more := by
  revert h
  fun_cases decodeBundle bytes <;> intro h <;> cases h
  case case2 => exact ⟨_, rfl, rfl⟩
  case case4 => exact ⟨_, rfl, by simp [bundleBytesU16]⟩
  case case6 => exact ⟨_, rfl, by simp [bundleBytesI32]⟩

/-- Wire bytes are one bundle with nothing after it. -/
theorem decode_wire_eq_ok_iff {bytes : List Byte} {i : Instr} :
    decode (.wire bytes) = .ok i ↔ decodeBundle bytes = .ok (i, []) := by
  rw [decode]
  rcases decodeBundle bytes with e | ⟨j, _ | ⟨b, more⟩⟩ <;> simp

/-! ## The two directions -/

theorem decode_encode (i : Instr) : decode (encode i) = .ok i := by
  cases i with
  | txAppend8 id v =>
    have hval : (v.setWidth 32).extractLsb' 0 8 = v := extractLsb'_setWidth_self (by decide) v
    simp [encode, decodeCommand, hval]
  | txAppend16 id v =>
    have hval : (v.setWidth 32).extractLsb' 0 16 = v := extractLsb'_setWidth_self (by decide) v
    simp [encode, decodeCommand, hval]
  | bundleU8 id v =>
    exact decode_wire_eq_ok_iff.mpr (by simpa using decodeBundle_bundleBytesU8 id v [])
  | bundleU16 id v =>
    exact decode_wire_eq_ok_iff.mpr (by simpa using decodeBundle_bundleBytesU16 id v [])
  | bundleI32 id v =>
    exact decode_wire_eq_ok_iff.mpr (by simpa using decodeBundle_bundleBytesI32 id v [])
  | _ => rfl

theorem decode_wire_iff (bytes : List Byte) (i : Instr) : decode (.wire bytes) = .ok i ↔ encode i = .wire bytes := by
  constructor
  · intro h
    obtain ⟨bundle, hi, hbytes⟩ := decodeBundle_sound (decode_wire_eq_ok_iff.mp h)
    rw [hi, hbytes, List.append_nil]
  · intro h
    rw [← h, decode_encode]

/-! ## The statements about the codec -/

/-- Settles O1: row by row; the appends find their operand in the low bits of `val`, the bundles in their bytes. -/
theorem decodeEncodeAgree : Obligations.DecodeEncodeAgree := decode_encode

/-- Settles O2: encoding the decoded operation gives the listed ports, and by O1 these decode to the same operation. -/
theorem commandsIgnoreUnlistedPorts : Obligations.CommandsIgnoreUnlistedPorts := by
  intro p
  have henc := encode_decodeCommand p
  exact ⟨decodeCommand p, rfl, henc ▸ decode_encode (decodeCommand p), henc⟩

/-- Settles O3: what is decoded is encoded by the bytes taken, which are all of them; the converse is O1. -/
theorem wireBytesDecodeOnlyToTheirBundle : Obligations.WireBytesDecodeOnlyToTheirBundle := decode_wire_iff

/-- Settles O4: the op code selects the row, whatever the other ports show; the wire bytes are an encoding. -/
theorem writtenOutWordsDecode : Obligations.WrittenOutWordsDecode :=
  ⟨fun _ h => decodeCommand_of_op h, fun _ h => decodeCommand_of_op h, fun _ h => decodeCommand_of_op h,
    fun _ h => decodeCommand_of_op h, fun _ h => decodeCommand_of_op h, fun _ h => decodeCommand_of_op h,
    fun _ h => decodeCommand_of_op h, fun _ h => decodeCommand_of_op h, decode_encode (.bundleU16 0x05 300)⟩

end Sys2Proof

/-! SUPPORT and PROOFS, family `30_encoding.md`, the machine: the step that takes a presented command (R80, R13), the reserved
op codes (R84), the load (R87), the rows that append (R74, R166) and the flush with a peer (R175, R176). -/

namespace Sys2Proof.Machine

open Sys2Proof Sys2Proof.Claims

/-! ## A presented command (R80) -/

theorem step_presented {s : State} {p : Ports} {rest : List Ports} (hin : s.inputs = p :: rest) (hr : p.rst = false)
    (hv : p.cmdValid = true) : step s = exec (decodeCommand p) { s with inputs := rest } := by
  rw [step_cons hin, stepPorts, hr, hv]
  rfl

/-- A word that the table decoder reads is presented by `withFetchWord` as a command that decodes alike. -/
theorem withFetchWord_of_decodeTableWord {nbits w : Nat} {i : Instr} (h : decodeTableWord nbits w = some i) :
    ∃ p : Ports, p.rst = false ∧ p.cmdValid = true ∧ decodeCommand p = i ∧
      ∀ s : State, s.withFetchWord nbits w = { s with inputs := p :: s.inputs } := by
  by_cases hn : nbits ≤ 8
  · by_cases hw : w < 32
    · rw [decodeTableWord, if_pos hn, commandOfWord, if_pos hw] at h
      refine ⟨{ Ports.blank with op := BitVec.ofNat 5 w }, rfl, rfl, Option.some.inj h, fun s => ?_⟩
      rw [State.withFetchWord, if_pos hn, commandOfWord, if_pos hw]
    · rw [decodeTableWord, if_pos hn, commandOfWord, if_neg hw] at h
      cases h
  · rw [decodeTableWord, if_neg hn] at h
    cases h

/-- R84: each of the 13 reserved op codes selects a row that raises `ILLEGAL`. -/
theorem exec_decodeCommand_reserved {p : Ports} (h : p.op.toNat = 0 ∨ 0x14 ≤ p.op.toNat) (s : State) :
    exec (decodeCommand p) s = .next (s.raise .illegal) := by
  obtain ⟨rst, cmdValid, ⟨⟨op, hop⟩⟩, sel, id, idx, off, wdata, len, val, now, peerIn⟩ := p
  change op = 0 ∨ 0x14 ≤ op at h
  rcases h with rfl | hlow
  · rfl
  · interval_cases op <;> rfl

/-! ## Storing into the receive slot (R87, R141) -/

/-- The state that stores into the receive slot leave, with `m` in that slot. -/
def received (s : State) (m : Memory) : State := (s.setMem s.receiveSpace m).answer .ok 0 0

@[simp] theorem received_act (s : State) (m : Memory) : (received s m).act = s.act := setMem_receive_act s m

@[simp] theorem received_rxb (s : State) (m : Memory) : (received s m).rxb = m := setMem_receive_rxb s m

/-- The second of two stores decides. -/
@[simp] theorem received_received (s : State) (m m' : Memory) : received (received s m) m' = received s m' := by
  obtain h | h := bit_cases s.activeSel <;> simp [received, State.receiveSpace, h, slotSpace, State.setMem, State.answer]

/-- R22: the receive slot is one of the two packet buffers, so nothing else of the state changes. -/
theorem received_frame (s : State) (m : Memory) : received s m =
    { s with buf0 := (received s m).buf0, buf1 := (received s m).buf1, result := some ⟨.ok, 0, 0⟩ } := by
  obtain h | h := bit_cases s.activeSel <;> simp [received, State.receiveSpace, h, slotSpace, State.setMem, State.answer]

theorem exec_rxWrite {off v : Byte} {s : State} {m : Memory} (h : s.rxb.write off.toNat v = some m) :
    exec (.rxWrite off v) s = .next (received s m) := by
  change execRxWrite off v s = _
  rw [execRxWrite, h]
  rfl

theorem execAll_cons {i : Instr} {s t : State} (h : exec i s = .next t) (is : List Instr) :
    execAll (i :: is) s = execAll is t := by
  rw [execAll, h]

/-- R87: the operations of a load from offset `k` on are one run of writes from there. -/
theorem execAll_expandLoad {bytes : List Byte} {k : Nat} {s : State} {m : Memory} (hne : bytes ≠ [])
    (hk : k + bytes.length ≤ 256) (h : s.rxb.writeBytes k bytes = some m) :
    execAll (expandLoad k bytes) s = .next (received s m) := by
  induction bytes generalizing k s with
  | nil => exact absurd rfl hne
  | cons b bs ih =>
    rw [List.length_cons] at hk
    have hoff : (BitVec.ofNat 8 k).toNat = k := by rw [BitVec.toNat_ofNat]; omega
    rw [writeBytes_cons, Option.bind_eq_some_iff] at h
    obtain ⟨m₁, h₁, h₂⟩ := h
    rw [expandLoad, execAll_cons (exec_rxWrite (by rwa [hoff]))]
    cases bs with
    | nil => cases h₂; rfl
    | cons c cs => rw [ih (by simp) (by omega) (by rwa [received_rxb]), received_received]

/-! ## The rows that append (R74, R165, R166) -/

theorem exec_of_appendOf {i : Instr} {s : State} {hwm : Nat} {bytes : List Byte}
    (h : appendOf s.cfg i = some (hwm, bytes)) : exec i s = appendBundle hwm bytes s := by
  cases i with
  | txAppend8 | txAppend16 | txAppend32 | bundleU8 | bundleU16 | bundleI32 => cases h; rfl
  | _ => cases h

/-- The row of a wire bundle appends the bytes that encode it, below the mark of its kind. -/
theorem appendOf_of_encode_wire {cfg : Config} {i : Instr} {bytes : List Byte} {mark : Nat}
    (henc : encode i = .wire bytes) (hmark : markOf cfg i = some mark) : appendOf cfg i = some (mark, bytes) := by
  cases i with
  | bundleU8 | bundleU16 | bundleI32 => cases henc; cases hmark; rfl
  | _ => cases henc

/-! ## The statements' own words for the watchdog and for a feedback frame (R71, R116, R155, R156) -/

theorem msSince_eq_timeSince (cfg : Config) (now earlier : Time) :
    msSince cfg.timeW now earlier = timeSince cfg now earlier := by
  rw [msSince, ← timeSince_eq, Int.toNat_natCast]

theorem enabledAt_eq_wdEnabled (s : State) (now : Time) :
    enabledAt s.cfg.timeW s.startTs s.lastCtrlTs s.ctrlSeen now = s.wdEnabled now := by
  rw [enabledAt, msSince_eq_timeSince, msSince_eq_timeSince]
  rfl

theorem coveredBytes_eq (s : State) (now : Time) (bundles : List Byte) :
    coveredBytes s.cfg s.startTs s.lastCtrlTs s.ctrlSeen now bundles = feedbackHeader now s ++ bundles := by
  rw [coveredBytes, enabledAt_eq_wdEnabled, msSince_eq_timeSince]
  rfl

theorem feedbackFrame_eq (s : State) (now : Time) (bundles : List Byte) :
    feedbackFrame s.cfg s.startTs s.lastCtrlTs s.ctrlSeen now bundles = feedbackHeader now s ++ bundles ++
      be16 (crc16 s.cfg.crcTable (feedbackHeader now s ++ bundles)) := by
  rw [feedbackFrame, coveredBytes_eq, be16_eq]
  rfl

/-! ## The statements about the machine -/

/-- Settles O24: the load is one run of writes into the receive slot, of which the memory's laws say everything. -/
theorem rxLoadFillsTheReceiveSlot : Obligations.RxLoadFillsTheReceiveSlot := by
  intro bytes s hs hne hlen
  obtain ⟨m, hm⟩ := writeBytes_of_wf (rxb_wf hs.buf0 hs.buf1) (a := 0) (bs := bytes) (by omega)
  refine ⟨received s m, execAll_expandLoad hne (by omega) hm, received_frame s m, fun a => ?_, received_act s m⟩
  simpa using read_writeBytes hm a

/-- Settles O40: the row is the guarded append of its bytes; a legal mark leaves room for them. -/
theorem wireBundlesAppendTheirBytes : Obligations.WireBundlesAppendTheirBytes := by
  intro i bytes mark s henc hmark hcfg hwf
  have happ := appendOf_of_encode_wire henc hmark
  have hroom := appendOf_room hcfg happ
  rw [exec_of_appendOf happ]
  refine ⟨fun hp hc => ?_, appendBundle_dropped⟩
  obtain ⟨m, hm⟩ := writeBytes_of_wf hwf (a := s.txCursor.toNat) (bs := bytes) (by omega)
  exact ⟨appended s m bytes.length, appendBundle_accepted hp hc hm, rfl, appended_txCursor_toNat m (by omega),
    read_writeBytes hm⟩

/-- Settles O47: what `flush_spec` says of a flush with a peer, in the words of the statement. -/
theorem flushSendsTheFrame : Obligations.FlushSendsTheFrame := by
  intro now s hs hp
  obtain ⟨r, hr⟩ := flush_of_wf now hs.txbuf hs.cursorLow hs.cursorHigh
  obtain ⟨m, bundles, -, hb, hread, hrest, rfl⟩ := flush_spec hr hp hs.cursorLow
  rw [← feedbackFrame_eq] at hr hread
  have hlen := readBytes_length hread
  refine ⟨(flushed s m _).answer .ok 0 (s.txCursor + 2), bundles, _, ?_, hb, rfl, rfl, hlen, by rwa [hlen], by rwa [hlen]⟩
  change execTxFlush now s = _
  rw [execTxFlush, hr]
  rfl

/-- Settles O5: the step takes the sample and runs the operation that it decodes to. -/
theorem stepRunsThePresentedOperation : Obligations.StepRunsThePresentedOperation := by
  intro s p rest i hin hr hv hd
  cases hd
  exact step_presented hin hr hv

/-- Settles O6: taking the placed sample gives back the state it was placed in. -/
theorem placedWordRunsNext : Obligations.PlacedWordRunsNext := by
  intro s nbits w i h
  obtain ⟨p, hr, hv, rfl, hplace⟩ := withFetchWord_of_decodeTableWord h
  rw [hplace]
  exact step_presented rfl hr hv

/-- Settles O52: the row of a reserved op code raises `ILLEGAL`. -/
theorem reservedOpCodesAnswerIllegal : Obligations.ReservedOpCodesAnswerIllegal :=
  fun p s h => ⟨decodeCommand p, rfl, exec_decodeCommand_reserved h s⟩

end Sys2Proof.Machine

/-! SUPPORT and PROOFS, family `40_crc.md`: the recurrence of the checksum (R101), the default table (R102), the operation
`CRC16` (R103, R104), and why the default table lets no change of one covered byte pass (R106). -/

namespace Sys2Proof.Machine

open Sys2Proof Sys2Proof.Claims

/-! ## The recurrence (R101) -/

@[simp] theorem crc16_nil (table : Vector Half 256) : crc16 table [] = 0 := rfl

theorem crc16_concat (table : Vector Half 256) (bytes : List Byte) (b : Byte) :
    crc16 table (bytes ++ [b]) = crcStep table (crc16 table bytes) b := by
  simp [crc16]

/-- The model slices the index out of its operand where the rule masks it. -/
theorem and_00FF_toNat (x : Half) : (x &&& 0x00FF).toNat = (x.extractLsb' 0 8).toNat := by
  rw [BitVec.toNat_and, BitVec.extractLsb'_toNat, Nat.shiftRight_zero]
  exact Nat.and_two_pow_sub_one_eq_mod _ 8

/-! ## The default table (R102) -/

theorem defaultCrcTable_toList :
    Config.defaultCrcTable.toList = (List.range 256).map fun i => crcTableEntry (BitVec.ofNat 8 i) := by
  decide +kernel

theorem defaultCrcTable_get (b : Byte) : Config.defaultCrcTable.get b.toFin = crcTableEntry b := by
  change Config.defaultCrcTable[b.toNat] = _
  rw [← Vector.getElem_toList (by simp [b.isLt])]
  simp [defaultCrcTable_toList]

/-- Halving is linear over xor, and so is the choice whether to add the polynomial. -/
theorem crcTableStep_xor (t u : Half) : crcTableStep (t ^^^ u) = crcTableStep t ^^^ crcTableStep u := by
  simp only [crcTableStep]
  rw [BitVec.getLsbD_xor, BitVec.ushiftRight_xor_distrib]
  cases t.getLsbD 0 <;> cases u.getLsbD 0
  · simp
  · simp [BitVec.xor_assoc]
  · simp only [Bool.true_xor, Bool.not_false, if_true, Bool.false_eq_true, if_false]
    ac_rfl
  · have hcancel : ∀ x y z : Half, (x ^^^ z) ^^^ (y ^^^ z) = x ^^^ y := fun x y z => by
      rw [BitVec.xor_comm y, BitVec.xor_assoc, ← BitVec.xor_assoc z, BitVec.xor_self, BitVec.zero_xor]
    simp [hcancel]

theorem iterate_crcTableStep_xor (n : Nat) (t u : Half) :
    crcTableStep^[n] (t ^^^ u) = crcTableStep^[n] t ^^^ crcTableStep^[n] u := by
  induction n generalizing t u with
  | zero => rfl
  | succ n ih => simp only [Function.iterate_succ_apply, crcTableStep_xor, ih]

theorem crcTableEntry_xor (i j : Byte) : crcTableEntry (i ^^^ j) = crcTableEntry i ^^^ crcTableEntry j := by
  rw [crcTableEntry, BitVec.setWidth_xor, iterate_crcTableStep_xor]
  rfl

theorem crcTableEntry_high_eq_zero : ∀ i : Byte, crcTableEntry i >>> 8 = 0 → i = 0 := by decide +kernel

/-- No two entries have the same high byte: by linearity the entry of the xor of their indices would have none. -/
theorem crcTableEntry_high_injective {i j : Byte} (h : crcTableEntry i >>> 8 = crcTableEntry j >>> 8) : i = j := by
  have h0 : crcTableEntry (i ^^^ j) >>> 8 = 0 := by
    rw [crcTableEntry_xor, BitVec.ushiftRight_xor_distrib, h, BitVec.xor_self]
    rfl
  exact BitVec.xor_eq_zero_iff.mp (crcTableEntry_high_eq_zero _ h0)

/-! ## What a step of the default table tells of its operands (R106) -/

/-- The index with which a step looks the table up. -/
def crcIndex (c : Half) (b : Byte) : Byte := c.extractLsb' 0 8 ^^^ b

theorem crcStep_default (c : Half) (b : Byte) :
    crcStep Config.defaultCrcTable c b = (c >>> 8) ^^^ crcTableEntry (crcIndex c b) := by
  rw [crcStep, defaultCrcTable_get, BitVec.extractLsb'_xor, extractLsb'_setWidth_self (by decide), crcIndex]

/-- The high byte of a checksum is that of the last entry looked up. -/
theorem crcStep_default_high (c : Half) (b : Byte) :
    crcStep Config.defaultCrcTable c b >>> 8 = crcTableEntry (crcIndex c b) >>> 8 := by
  rw [crcStep_default, BitVec.ushiftRight_xor_distrib, ← BitVec.shiftRight_add, BitVec.ushiftRight_eq_zero (by decide),
    BitVec.zero_xor]

/-- The high byte of the result gives the index, and then its low byte the high byte of the checksum before. -/
theorem crcStep_default_inj {c c' : Half} {b b' : Byte}
    (h : crcStep Config.defaultCrcTable c b = crcStep Config.defaultCrcTable c' b') :
    crcIndex c b = crcIndex c' b' ∧ c >>> 8 = c' >>> 8 := by
  have hindex : crcIndex c b = crcIndex c' b' :=
    crcTableEntry_high_injective (by rw [← crcStep_default_high, h, crcStep_default_high])
  rw [crcStep_default, crcStep_default, hindex, BitVec.xor_left_inj] at h
  exact ⟨hindex, h⟩

theorem crcStep_default_byte_inj {c : Half} {b b' : Byte}
    (h : crcStep Config.defaultCrcTable c b = crcStep Config.defaultCrcTable c b') : b = b' :=
  (BitVec.xor_right_inj _).mp (crcStep_default_inj h).1

theorem crcStep_default_checksum_inj {c c' : Half} {b : Byte}
    (h : crcStep Config.defaultCrcTable c b = crcStep Config.defaultCrcTable c' b) : c = c' := by
  obtain ⟨hindex, hhigh⟩ := crcStep_default_inj h
  have hlow : c.extractLsb' 0 8 = c'.extractLsb' 0 8 := (BitVec.xor_left_inj _).mp hindex
  have hhigh' : c.extractLsb' 8 8 = c'.extractLsb' 8 8 := congrArg (BitVec.extractLsb' 0 8) hhigh
  rw [← beHalf_split c, ← beHalf_split c', hhigh', hlow]

/-- From different checksums the same bytes lead to different ones. -/
theorem foldl_crcStep_default_inj {bytes : List Byte} {c c' : Half}
    (h : bytes.foldl (crcStep Config.defaultCrcTable) c = bytes.foldl (crcStep Config.defaultCrcTable) c') : c = c' := by
  induction bytes generalizing c c' with
  | nil => exact h
  | cons b bs ih => exact crcStep_default_checksum_inj (ih h)

/-- The step over the changed byte tells the two sequences apart, and the bytes after it do not bring them together. -/
theorem foldl_crcStep_default_set_ne {bytes : List Byte} {i : Nat} {v old : Byte} (hold : bytes[i]? = some old)
    (hv : v ≠ old) (c : Half) :
    (bytes.set i v).foldl (crcStep Config.defaultCrcTable) c ≠ bytes.foldl (crcStep Config.defaultCrcTable) c := by
  induction bytes generalizing i c with
  | nil => cases hold
  | cons b bs ih =>
    cases i with
    | zero =>
      cases hold
      exact fun h => hv (crcStep_default_byte_inj (foldl_crcStep_default_inj h))
    | succ i => exact ih hold _

theorem crc16_default_set_ne {bytes : List Byte} {i : Nat} {v old : Byte} (hold : bytes[i]? = some old) (hv : v ≠ old) :
    crc16 Config.defaultCrcTable (bytes.set i v) ≠ crc16 Config.defaultCrcTable bytes :=
  foldl_crcStep_default_set_ne hold hv 0

/-! ## A store in front of the trailer (R106, R111) -/

theorem readBytes_write {m m' : Memory} {a : Nat} {v : Byte} (h : m.write a v = some m') {n : Nat} {bs : List Byte}
    (hbs : m.readBytes 0 n = some bs) : m'.readBytes 0 n = some (bs.set a v) := by
  obtain ⟨hlen, hget⟩ := (readBytes_eq_some_iff _ _ _ _).mp hbs
  refine (readBytes_eq_some_iff _ _ _ _).mpr ⟨by simpa using hlen, fun i hi => ?_⟩
  rw [Nat.zero_add, read_write h, List.getElem?_set]
  by_cases ha : i = a
  · subst ha
    simp [hlen, hi]
  · rw [if_neg ha, if_neg (Ne.symm ha), ← hget i hi, Nat.zero_add]

/-- The trailer stays and the checksum does not. -/
theorem frameOk_write_covered {cfg : Config} (hcfg : cfg.legal) (htable : cfg.crcTable = Config.defaultCrcTable)
    {m m' : Memory} (hm : m.wf) {len : Len} (hok : frameOk cfg m len = some true) {a : Nat} {v old : Byte}
    (ha : a + 2 < len.toNat) (hold : m.read a = some old) (hv : v ≠ old) (hw : m.write a v = some m') :
    frameOk cfg m' len = some false := by
  have h5 := hcfg.1
  obtain ⟨hmin, h256⟩ := frameOk_true_range hok
  obtain ⟨bs, hbs⟩ := readBytes_of_wf hm (a := 0) (n := len.toNat) (by omega)
  have hbs' := readBytes_write hw hbs
  have hlen := readBytes_length hbs
  have hlen' : (bs.set a v).length = len.toNat := readBytes_length hbs'
  have hold' : (bs.take (len.toNat - 2))[a]? = some old := by
    obtain ⟨-, hget⟩ := (readBytes_eq_some_iff _ _ _ _).mp hbs
    rw [List.getElem?_take, if_pos (by omega), ← hget a (by omega), Nat.zero_add, hold]
  have hhi : bs[len.toNat - 2]? = some bs[len.toNat - 2] := List.getElem?_eq_getElem (by omega)
  have hlo : bs[len.toNat - 1]? = some bs[len.toNat - 1] := List.getElem?_eq_getElem (by omega)
  rw [frameOk_of_bytes cfg (by omega) hmin h256 hbs hhi hlo (List.getElem?_eq_getElem (by omega)), htable] at hok
  obtain ⟨hcrc, -⟩ := Bool.and_eq_true_iff.mp (Option.some.inj hok)
  have hcrc' := crc16_default_set_ne hold' hv
  rw [of_decide_eq_true hcrc, ← List.take_set] at hcrc'
  rw [frameOk_of_bytes cfg (by omega) hmin h256 hbs' (by rwa [List.getElem?_set_ne (by omega)])
    (by rwa [List.getElem?_set_ne (by omega)]) (List.getElem?_eq_getElem (by omega)), htable, decide_eq_false hcrc',
    Bool.false_and]

@[simp] theorem received_cfg (s : State) (m : Memory) : (received s m).cfg = s.cfg := setMem_cfg s _ m

theorem exec_rxDecode_eq_next {len : Len} {s t : State} : exec (.rxDecode len) s = .next t ↔
    ∃ ok, frameOk s.cfg s.rxb len = some ok ∧ t = if ok then s.answer .ok 0 0 else s.raise .rejected := by
  change execRxDecode len s = .next t ↔ _
  rw [execRxDecode, access_eq_next, Option.map_eq_some_iff]
  exact exists_congr fun ok => and_congr_right fun _ => eq_comm

/-! ## The operation `CRC16` (R103, R104) -/

/-- The buffer that `sel` selects. -/
def selectedMem (s : State) (sel : BitVec 2) : Memory := if sel = 0 then s.rxb else if sel = 1 then s.act else s.txbuf

theorem sel_cases {sel : BitVec 2} (h : sel ≠ 3) : sel = 0 ∨ sel = 1 ∨ sel = 2 := by revert sel; decide

theorem selectSpace_of_ne_three {sel : BitVec 2} (h : sel ≠ 3) (s : State) :
    ∃ k, selectSpace s sel = some k ∧ s.mem k = selectedMem s sel := by
  obtain rfl | rfl | rfl := sel_cases h <;> exact ⟨_, rfl, rfl⟩

theorem selectedMem_wf {s : State} (hs : s.Sound) (sel : BitVec 2) : (selectedMem s sel).wf := by
  rw [selectedMem]
  split
  · exact rxb_wf hs.buf0 hs.buf1
  · split
    · exact act_wf hs.buf0 hs.buf1
    · exact hs.txbuf

theorem exec_crc16_illegal {sel : BitVec 2} {len : Len} (h : 256 < len.toNat ∨ sel = 3) (s : State) :
    exec (.crc16 sel len) s = .next (s.raise .illegal) := by
  change execCrc16 sel len s = _
  rw [execCrc16]
  split
  · rfl
  · next hlen =>
    rw [lenOutOfRange_iff] at hlen
    obtain rfl := h.resolve_left hlen
    rfl

theorem exec_crc16_legal {sel : BitVec 2} {len : Len} (hlen : len.toNat ≤ 256) (hsel : sel ≠ 3) (s : State) :
    exec (.crc16 sel len) s =
      access (((selectedMem s sel).readBytes 0 len.toNat).map fun bytes => s.answer .ok (crc16 s.cfg.crcTable bytes) 0) := by
  obtain ⟨k, hk, hmem⟩ := selectSpace_of_ne_three hsel s
  change execCrc16 sel len s = _
  rw [execCrc16, if_neg (by rw [lenOutOfRange_iff]; omega), hk, ← hmem]

/-- R104: the answer of a legal `CRC16` is a function of the selected bytes and the table. -/
theorem resultOf_crc16_legal {sel : BitVec 2} {len : Len} (hlen : len.toNat ≤ 256) (hsel : sel ≠ 3) (s : State) :
    resultOf (exec (.crc16 sel len) s) =
      ((selectedMem s sel).readBytes 0 len.toNat).map fun bytes => ⟨.ok, crc16 s.cfg.crcTable bytes, 0⟩ := by
  rw [exec_crc16_legal hlen hsel, resultOf_access]
  cases (selectedMem s sel).readBytes 0 len.toNat <;> rfl

/-! ## The statements -/

/-- Settles O11: a checksum is a fold of the step, whose index is the low byte that the rule masks. -/
theorem checksumFollowsTheRecurrence : Obligations.ChecksumFollowsTheRecurrence := by
  intro table
  refine ⟨crc16_nil table, fun bytes b k hk => ?_⟩
  have hk' : k = ((crc16 table bytes ^^^ b.setWidth 16).extractLsb' 0 8).toFin :=
    Fin.ext (hk.trans (and_00FF_toNat _))
  rw [crc16_concat, crcStep, ← hk']
  rfl

/-- Settles O12: the listed entries are the built ones, index by index. -/
theorem defaultTableIsTheReflectedA001Table : Obligations.DefaultTableIsTheReflectedA001Table := by
  refine ⟨rfl, fun i => ?_⟩
  have hindex : (BitVec.ofFin i : Byte).setWidth 16 = BitVec.ofNat 16 i.val := BitVec.eq_of_toNat_eq (by simp)
  rw [← hindex]
  exact defaultCrcTable_get (BitVec.ofFin i)

/-- Settles O13: the two guards are `ILLEGAL`; past them a sound state has every byte of the selected buffer. -/
theorem crc16AnswersTheChecksum : Obligations.Crc16AnswersTheChecksum := by
  intro sel len s
  refine ⟨fun h => exec_crc16_illegal h s, fun hlen hsel hs => ?_⟩
  obtain ⟨bytes, hbytes⟩ := readBytes_of_wf (selectedMem_wf hs sel) (a := 0) (n := len.toNat) (by omega)
  refine ⟨bytes, hbytes, ?_⟩
  rw [exec_crc16_legal hlen hsel, hbytes]
  rfl

/-- Settles O14: both answer `ILLEGAL` or both answer from the same bytes and the same table. -/
theorem crc16DependsOnTheBufferOnly : Obligations.Crc16DependsOnTheBufferOnly := by
  intro sel len s s' t t' htable hrxb hact htx ht ht'
  rw [← resultOf_next t, ← resultOf_next t', ← ht, ← ht']
  by_cases hbad : 256 < len.toNat ∨ sel = 3
  · rw [exec_crc16_illegal hbad, exec_crc16_illegal hbad]
    rfl
  · obtain ⟨hlen, hsel⟩ := not_or.mp hbad
    have hmem : selectedMem s' sel = selectedMem s sel := by
      obtain rfl | rfl | rfl := sel_cases hsel
      · exact hrxb rfl
      · exact hact rfl
      · exact htx rfl
    rw [resultOf_crc16_legal (by omega) hsel, resultOf_crc16_legal (by omega) hsel, hmem, htable]

/-- Settles O15: the store changes the checksum of the covered bytes and leaves the trailer. -/
theorem oneChangedByteIsAlwaysDetected : Obligations.OneChangedByteIsAlwaysDetected := by
  intro s t len off v old hs htable hdec hoff hold hv hw
  have hwf := rxb_wf hs.buf0 hs.buf1
  obtain ⟨ok, hok, hans⟩ := exec_rxDecode_eq_next.mp hdec
  obtain ⟨m, hm⟩ := write_of_wf hwf off.isLt v
  rw [exec_rxWrite hm] at hw
  cases hw
  cases ok with
  | false => cases congrArg State.result hans
  | true =>
    have hbad := frameOk_write_covered hs.cfg htable hwf hok hoff hold hv hm
    exact exec_rxDecode_eq_next.mpr ⟨false, by rwa [received_cfg, received_rxb], rfl⟩

end Sys2Proof.Machine

/-! SUPPORT and PROOFS, family `41_frame_codec.md`: the acceptance test in the words of R111, and why every frame that an
operation emits passes it (R116, R117). -/

namespace Sys2Proof.Machine

open Sys2Proof Sys2Proof.Claims

/-! ## `RX.DECODE` over the bytes of a frame (R111, R112) -/

/-- The model compares the checksum with `{hi, lo}`, the statement with the number `256 * hi + lo`. -/
theorem frameOk_eq_acceptable {cfg : Config} {m : Memory} {len : Len} {bytes : List Byte} (h2 : 2 ≤ len.toNat)
    (hmin : cfg.minFrameLen.toNat ≤ len.toNat) (h256 : len.toNat ≤ 256) (hbytes : m.readBytes 0 len.toNat = some bytes) :
    frameOk cfg m len = some (acceptable cfg bytes) := by
  have hlen := readBytes_length hbytes
  have hget : ∀ i, i < len.toNat → bytes[i]? = some (bytes.getD i 0) := fun i hi => by
    rw [List.getD_eq_getElem _ _ (by omega), List.getElem?_eq_getElem]
  rw [frameOk_of_bytes cfg h2 hmin h256 hbytes (hget _ (by omega)) (hget _ (by omega)) (hget 1 (by omega))]
  simp [acceptable, hlen, hmin, h256, ← BitVec.toNat_inj, beHalf_toNat]

theorem exec_rxDecode_of_bytes {len : Len} {s : State} {bytes : List Byte} (h2 : 2 ≤ len.toNat)
    (hmin : s.cfg.minFrameLen.toNat ≤ len.toNat) (h256 : len.toNat ≤ 256)
    (hbytes : s.rxb.readBytes 0 len.toNat = some bytes) :
    exec (.rxDecode len) s = .next (answered s (if acceptable s.cfg bytes then .ok else .rejected) 0 0) :=
  exec_rxDecode_eq_next.mpr ⟨_, frameOk_eq_acceptable h2 hmin h256 hbytes, by split <;> rfl⟩

theorem acceptable_append_trailer {cfg : Config} {covered : List Byte} {hi lo : Byte}
    (hversion : covered[1]? = some cfg.protocolVersion) (hlen : covered.length ≤ 254)
    (hcrc : crc16 cfg.crcTable covered = beHalf hi lo) (hmin : cfg.minFrameLen.toNat ≤ covered.length + 2) :
    acceptable cfg (covered ++ [hi, lo]) = true := by
  obtain ⟨h1, hversion⟩ := List.getElem?_eq_some_iff.mp hversion
  simp [acceptable, hmin, hlen, hcrc, beHalf_toNat, h1, hversion]

/-! ## Frames that carry their own checksum (R116, R117) -/

/-- The bytes that `encode` leaves, as far as a decoder looks at them: the version at offset 1 and, within 256 bytes, the
checksum of all bytes before it. -/
def Sealed (version : Byte) (table : Vector Half 256) (frame : List Byte) : Prop :=
  ∃ covered, covered[1]? = some version ∧ covered.length ≤ 254 ∧ frame = covered ++ be16 (crc16 table covered)

theorem Sealed.length_range {version : Byte} {table : Vector Half 256} {frame : List Byte}
    (h : Sealed version table frame) : 2 ≤ frame.length ∧ frame.length ≤ 256 := by
  obtain ⟨covered, -, hlen, rfl⟩ := h
  rw [List.length_append, be16_length]
  omega

theorem Sealed.acceptable {cfg : Config} {frame : List Byte} (h : Sealed cfg.protocolVersion cfg.crcTable frame)
    (hmin : cfg.minFrameLen.toNat ≤ frame.length) : acceptable cfg frame = true := by
  obtain ⟨covered, hversion, hlen, rfl⟩ := h
  exact acceptable_append_trailer hversion hlen (beHalf_split _).symm (by rwa [List.length_append] at hmin)

/-! ## What the operations emit (R175, R176, R191) -/

theorem flush_sends_sealed {now : Time} {s t : State} {n : Len} (h : flush now s = some (.sent n, t))
    (hp : s.peerValid = true) (hlow : 6 ≤ s.txCursor.toNat) (hhigh : s.txCursor.toNat ≤ 254) :
    ∃ frame, Sealed s.cfg.protocolVersion s.cfg.crcTable frame ∧ t.events = s.events ++ [.txFrame s.peer frame] := by
  obtain ⟨m, bundles, -, hb, -, -, hr⟩ := flush_spec h hp hlow
  cases hr
  refine ⟨_, ⟨feedbackHeader now s ++ bundles, rfl, ?_, rfl⟩, rfl⟩
  rw [List.length_append, feedbackHeader_length, readBytes_length hb]
  omega

/-- Only the two operations that flush emit a frame, and a flush seals it. -/
theorem Effect.emits_sealed {i : Instr} {s t : State} (h : Effect s i t) (hs : s.Sound) :
    ∃ new, t.events = s.events ++ new ∧
      ∀ q frame, .txFrame q frame ∈ new → Sealed s.cfg.protocolVersion s.cfg.crcTable frame := by
  cases h with
  | answers | stores | commits | appends | requests | polls => exact ⟨[], by simp [appended], by simp⟩
  | flushes now n u hp hf =>
    obtain ⟨frame, hsealed, hev⟩ := flush_sends_sealed hf hp hs.cursorLow hs.cursorHigh
    refine ⟨_, hev, fun q frame' hmem => ?_⟩
    cases List.mem_singleton.mp hmem
    exact hsealed
  | accepts len now q b n u hok hb hf =>
    obtain ⟨frame, hsealed, hev⟩ := flush_sends_sealed hf (by simp) (by simpa using hs.cursorLow)
      (by simpa using hs.cursorHigh)
    rw [accepted_events, List.append_assoc] at hev
    refine ⟨_, hev, fun q' frame' hmem => ?_⟩
    rcases List.mem_append.mp hmem with hstrobe | hframe
    · split at hstrobe <;> simp at hstrobe
    · cases List.mem_singleton.mp hframe
      simpa using hsealed

/-! ## The statements -/

/-- Settles O25: out of range nothing is read; in range a sound state has every byte, and a legal configuration keeps the
length at or above the trailer's. -/
theorem rxDecodeAnswersByTheThreeConditions : Obligations.RxDecodeAnswersByTheThreeConditions := by
  intro len s
  refine ⟨fun h => exec_rxDecode_eq_next.mpr ⟨false, frameOk_short _ _ _ h, rfl⟩, fun hmin h256 hs => ?_⟩
  have h5 := hs.cfg.1
  obtain ⟨bytes, hbytes⟩ := readBytes_of_wf (rxb_wf hs.buf0 hs.buf1) (a := 0) (n := len.toNat) (by omega)
  exact ⟨bytes, hbytes, exec_rxDecode_of_bytes (by omega) hmin h256 hbytes⟩

/-- Settles O26: every emitted frame is sealed, and a sealed frame is acceptable wherever the version and the table agree. -/
theorem sentFramesAreAccepted : Obligations.SentFramesAreAccepted := by
  intro i s t u new q frame hs hexec hnew hmem hversion htable hmin hframe
  obtain ⟨new', hnew', hsealed⟩ := (exec_effect hexec).emits_sealed hs
  obtain rfl := List.append_cancel_left (hnew.symm.trans hnew')
  have hsealed := hsealed q frame hmem
  rw [← hversion, ← htable] at hsealed
  obtain ⟨h2, h256⟩ := hsealed.length_range
  have hlen : (BitVec.ofNat 9 frame.length).toNat = frame.length := by rw [BitVec.toNat_ofNat]; omega
  rw [exec_rxDecode_of_bytes (by rwa [hlen]) (by rwa [hlen]) (by rwa [hlen]) (by rwa [hlen]), hsealed.acceptable hmin]
  rfl

end Sys2Proof.Machine

/-! SUPPORT and PROOFS, family `42_bundle_index.md`: a turn of the scan without its fuel (R126), the answers of the
three lookups from what the scan found (R127 to R131), and the scan over a sequence of whole bundles (R134). -/

namespace Sys2Proof.Machine

open Sys2Proof Sys2Proof.Claims

/-! ## The scan from a cursor (R126, R132) -/

theorem locate_eq_scanFrom (id : Byte) (s : State) : locate id s = scanFrom s.act s.activeSize.toNat id 3 :=
  locateFrom_fuel _ _ _ (Nat.sub_le _ _) (Nat.le_refl _)

theorem scanFrom_end {m : Memory} {size cur : Nat} (id : Byte) (h : ¬ cur + 2 < size) :
    scanFrom m size id cur = some .notFound := locateFrom_end _ _ _ _ _ h

section
variable {m : Memory} {size cur : Nat} {len : Byte}

theorem scanFrom_hit {id : Byte} (h : cur + 2 < size) (hl : m.read cur = some len) (hi : m.read (cur + 1) = some id) :
    scanFrom m size id cur = some (if len.toNat = 0 then .notFound else .found cur (len.toNat - 1)) := by
  obtain ⟨k, hk⟩ : ∃ k, size - cur = k + 1 := ⟨size - cur - 1, by omega⟩
  rw [scanFrom, hk, locateFrom_hit k h hl hi]

/-- The turn takes one unit of the fuel and moves the cursor by one byte at least. -/
theorem scanFrom_skip {id other : Byte} (h : cur + 2 < size) (hl : m.read cur = some len)
    (hi : m.read (cur + 1) = some other) (hne : other ≠ id) :
    scanFrom m size id cur = scanFrom m size id (cur + 1 + len.toNat) := by
  obtain ⟨k, hk⟩ : ∃ k, size - cur = k + 1 := ⟨size - cur - 1, by omega⟩
  rw [scanFrom, hk, locateFrom_skip k h hl hi hne]
  exact locateFrom_fuel _ _ _ (by omega) (Nat.le_refl _)

end

/-! ## What a lookup finds in a sound state -/

theorem State.Sound.locate_answers {s : State} (hs : s.Sound) (id : Byte) : ∃ l, locate id s = some l :=
  locate_of_wf (act_wf hs.buf0 hs.buf1) hs.size id

/-- The ranges of R127: the scan starts at offset 3 and ends three bytes before the frame's end. -/
theorem State.Sound.locate_found_range {s : State} (hs : s.Sound) {id : Byte} {p n : Nat}
    (h : locate id s = some (.found p n)) : n ≤ 254 ∧ 3 ≤ p ∧ p ≤ 253 := by
  obtain ⟨hlow, hhigh, -, len, -, hlen⟩ := locateFrom_found h
  have hsize := hs.size
  have hbyte := len.isLt
  exact ⟨by omega, hlow, by omega⟩

/-! ## The three lookups, from what was found (R127, R128, R130, R131) -/

section
variable {id : Byte} {s : State}

theorem exec_bndLocate {l : Located} (h : locate id s = some l) :
    exec (.bndLocate id) s = .next { s with result := some (locateAnswer l) } := by
  change execBndLocate id s = _
  rw [execBndLocate, h]
  cases l <;> rfl

theorem exec_bndSize_notFound (h : locate id s = some .notFound) :
    exec (.bndSize id) s = .next (s.raise .notFound) := by
  change execBndSize id s = _
  rw [execBndSize, h]
  rfl

theorem exec_bndSize_found {p n : Nat} (h : locate id s = some (.found p n)) :
    exec (.bndSize id) s = .next (s.answer .ok (BitVec.ofNat 16 n) 0) := by
  change execBndSize id s = _
  rw [execBndSize, h]
  rfl

theorem exec_bndComp_notFound (idx : Byte) (h : locate id s = some .notFound) :
    exec (.bndComp id idx) s = .next (s.raise .notFound) := by
  change execBndComp id idx s = _
  rw [execBndComp, h]
  rfl

theorem exec_bndComp_found {p n : Nat} (idx : Byte) (h : locate id s = some (.found p n)) :
    exec (.bndComp id idx) s =
      if n ≤ idx.toNat ∨ 255 < p + 2 + idx.toNat then .next (s.raise .notFound)
      else access ((s.act.read (p + 2 + idx.toNat)).map fun b => s.answer .ok (zextByte b) 0) := by
  change execBndComp id idx s = _
  rw [execBndComp, h, Option.bind_some]
  by_cases hn : n ≤ idx.toNat
  · simp [hn, access]
  · by_cases hp : 255 < p + 2 + idx.toNat
    · simp [hn, hp, access]
    · simp [hn, hp]

end

/-! ## The scan over whole bundles (R73, R134) -/

/-- A run of bytes that is one list after the other holds each of the two where it starts. -/
theorem readBytes_append_parts {m : Memory} {a : Nat} {xs ys : List Byte}
    (h : m.readBytes a (xs ++ ys).length = some (xs ++ ys)) :
    m.readBytes a xs.length = some xs ∧ m.readBytes (a + xs.length) ys.length = some ys := by
  rw [List.length_append, readBytes_add, Option.bind_eq_some_iff] at h
  obtain ⟨xs', hx, h⟩ := h
  obtain ⟨ys', hy, h⟩ := Option.map_eq_some_iff.mp h
  obtain ⟨rfl, rfl⟩ := List.append_inj h (readBytes_length hx)
  exact ⟨hx, hy⟩

/-- Where bundle number `j` of `bundles` lies when the first one starts at `cur`, as the scan reports it. -/
def bundleAt (bundles : List Bundle) (cur : Nat) : Option Nat → Located
  | none => .notFound
  | some j => .found (cur + (bundleRegion (bundles.take j)).length) ((bundles[j]?.map (·.payload.length)).getD 0)

theorem bundleAt_cons_zero (b : Bundle) (bundles : List Bundle) (cur : Nat) :
    bundleAt (b :: bundles) cur (some 0) = .found cur b.payload.length := rfl

/-- A position after the first bundle counts from where the second one starts. -/
theorem bundleAt_cons_succ (b : Bundle) (bundles : List Bundle) (cur : Nat) (j : Option Nat) :
    bundleAt (b :: bundles) cur (j.map (· + 1)) = bundleAt bundles (cur + b.bytes.length) j := by
  cases j with
  | none => rfl
  | some j => simp [bundleAt, Nat.add_assoc]

/-- A whole bundle in memory begins with its length byte and its identifier. -/
theorem read_bundle_head {m : Memory} {cur : Nat} {b : Bundle} (h : m.readBytes cur b.bytes.length = some b.bytes) :
    m.read cur = some (BitVec.ofNat 8 (b.payload.length + 1)) ∧ m.read (cur + 1) = some b.id := by
  obtain ⟨-, hget⟩ := (readBytes_eq_some_iff _ _ _ _).mp h
  exact ⟨hget 0 (by simp), hget 1 (by simp)⟩

/-- Bundle by bundle, with nothing between them and the trailer behind the last one. -/
theorem scanFrom_bundles {m : Memory} {size cur : Nat} {bundles : List Bundle} (id : Byte)
    (hwf : ∀ b ∈ bundles, b.wellFormed = true) (hsize : size = cur + (bundleRegion bundles).length + 2)
    (hread : m.readBytes cur (bundleRegion bundles).length = some (bundleRegion bundles)) :
    scanFrom m size id cur = some (bundleAt bundles cur (bundles.findIdx? fun b => decide (b.id = id))) := by
  induction bundles generalizing cur with
  | nil => exact scanFrom_end id (by simp at hsize; omega)
  | cons b bundles ih =>
    obtain ⟨hb, hrest⟩ := List.forall_mem_cons.mp hwf
    obtain ⟨hhead, htail⟩ := readBytes_append_parts hread
    obtain ⟨hl, hi⟩ := read_bundle_head hhead
    have hlen := bundle_length_byte hb
    simp only [bundleRegion_cons, List.length_append, bundle_bytes_length] at hsize
    rw [List.findIdx?_cons]
    by_cases hid : b.id = id
    · rw [scanFrom_hit (by omega) hl (hid ▸ hi), hlen, if_pos (decide_eq_true hid), bundleAt_cons_zero]
      rfl
    · have hnext : cur + 1 + (b.payload.length + 1) = cur + b.bytes.length := by rw [bundle_bytes_length]; omega
      rw [scanFrom_skip (by omega) hl hi hid, hlen, hnext, if_neg (by simp [hid]), bundleAt_cons_succ]
      exact ih hrest (by rw [bundle_bytes_length]; omega) htail

/-! ## The statements -/

/-- Settles O27: the fuel of a lookup is as good as the distance to the frame's end, and each turn is one of the three. -/
theorem locateFollowsTheScanLoop : Obligations.LocateFollowsTheScanLoop := by
  refine ⟨locate_eq_scanFrom, fun m size id cur => ⟨scanFrom_end id, fun len bundleId h hl hi => ?_⟩⟩
  split
  · next hid =>
    subst hid
    have hzero : len.toNat = 0 ↔ len = 0 := BitVec.toNat_inj (y := 0)
    rw [scanFrom_hit h hl hi, apply_ite some, if_congr hzero rfl rfl]
  · next hid => exact scanFrom_skip h hl hi hid

/-- Settles O28: a sound state's lookup has an answer, which the operation shows. -/
theorem bndLocateAnswersWhereTheBundleIs : Obligations.BndLocateAnswersWhereTheBundleIs := by
  intro id s hs
  obtain ⟨l, hl⟩ := hs.locate_answers id
  exact ⟨l, hl, exec_bndLocate hl, fun p n hf => hs.locate_found_range (hf ▸ hl)⟩

/-- Settles O29: past the two guards the address is one of the active slot, of which a sound state has every byte. -/
theorem bndCompAnswersTheComponent : Obligations.BndCompAnswersTheComponent := by
  intro id idx s hs
  obtain ⟨l, hl⟩ := hs.locate_answers id
  refine ⟨l, hl, ?_, ?_⟩
  · rintro rfl
    exact exec_bndComp_notFound idx hl
  · rintro p n rfl
    refine ⟨fun hout => (exec_bndComp_found idx hl).trans (if_pos hout), fun hn hp => ?_⟩
    obtain ⟨b, hb⟩ := read_of_wf (act_wf hs.buf0 hs.buf1) (a := p + 2 + idx.toNat) (by omega)
    refine ⟨b, hb, ?_⟩
    rw [exec_bndComp_found idx hl, if_neg (by omega), hb]
    rfl

/-- Settles O30: what the scan reports as found carries its length byte. -/
theorem bndSizeAnswersThePayloadLength : Obligations.BndSizeAnswersThePayloadLength := by
  intro id s hs
  obtain ⟨l, hl⟩ := hs.locate_answers id
  refine ⟨l, hl, ?_, ?_⟩
  · rintro rfl
    exact exec_bndSize_notFound hl
  · rintro p n rfl
    obtain ⟨-, -, -, hlen⟩ := locateFrom_found hl
    exact ⟨exec_bndSize_found hl, hlen⟩

/-- Settles O31: the scan walks the bundles in their order, from offset 3 to the trailer. -/
theorem wellFormedFramesAreIndexed : Obligations.WellFormedFramesAreIndexed := by
  intro s bundles id hwf hsize _ hread
  have hloc := (locate_eq_scanFrom id s).trans (scanFrom_bundles id hwf (by omega) hread)
  rw [exec_bndLocate hloc]
  cases bundles.findIdx? fun b => decide (b.id = id) <;> rfl

end Sys2Proof.Machine

/-! SUPPORT and PROOFS, family `43_exchange.md`: the answers of the exchange rows (R140 to R145), the handle protocol of
`RX.BEGIN` and the commit (R147), and what keeps the active frame between two commits (R146). -/

namespace Sys2Proof.Machine

open Sys2Proof Sys2Proof.Claims

/-! ## The answers of the exchange rows (R140, R142, R144, R145) -/

theorem exec_rxBegin (s : State) : exec .rxBegin s = .next (s.answer .ok 0 (zextSlot (1 - s.activeSel))) := rfl

theorem exec_actInfo (s : State) :
    exec .actInfo s = .next (s.answer .ok (zextLen s.activeSize) (zextSlot s.activeSel)) := rfl

theorem exec_rxCommit_legal {len : Len} (h : len.toNat ≤ 256) (s : State) :
    exec (.rxCommit len) s = .next ((s.commit len).answer .ok 0 (zextSlot (1 - s.activeSel))) := by
  change execRxCommit len s = _
  rw [execRxCommit, if_neg (by rw [lenOutOfRange_iff]; omega), commit_activeSel]

theorem exec_rxCommit_illegal {len : Len} (h : 256 < len.toNat) (s : State) :
    exec (.rxCommit len) s = .next (s.raise .illegal) := by
  change execRxCommit len s = _
  rw [execRxCommit, if_pos ((lenOutOfRange_iff len).mpr h)]

theorem exec_actRead {off b : Byte} {s : State} (h : s.act.read off.toNat = some b) :
    exec (.actRead off) s = .next (s.answer .ok (zextByte b) 0) := by
  change execActRead off s = _
  rw [execActRead, h]
  rfl

/-! ## The handle of a slot (R140, R147) -/

/-- R140: the index of the slot that is not active. -/
theorem zextSlot_toggle (k : BitVec 1) : zextSlot (1 - k) = if k = 0 then 1 else 0 := by revert k; decide

/-- R147: the handles of the two slots are 0 and 1, so one taken from 1 gives the other. -/
theorem zextSlot_eq_one_sub_toggle (k : BitVec 1) : zextSlot k = 1 - zextSlot (1 - k) := by revert k; decide

/-! ## The active frame between two commits (R146) -/

/-- Of the effects of an operation, the two commits alone move the select bit and the size; a store writes the receive slot,
and the rest write no packet buffer. -/
theorem Effect.keeps_activeFrame {i : Instr} {s t : State} (h : Effect s i t) (hcommit : ∀ len, i ≠ .rxCommit len)
    (hpoll : ∀ len now q, i = .poll len now q → statusOf t ≠ some .ok) : SameActiveFrame s t := by
  cases h with
  | answers | requests | polls => exact ⟨rfl, rfl, rfl⟩
  | stores off v m => exact ⟨setMem_activeSel s _ m, setMem_activeSize s _ m, setMem_receive_act s m⟩
  | appends hwm bytes m => exact ⟨rfl, rfl, appended_act s m _⟩
  | commits len => exact absurd rfl (hcommit len)
  | flushes now n u hp hf =>
    obtain ⟨m, bytes, -, rfl⟩ := flush_sent_eq_flushed hf
    exact ⟨rfl, rfl, flushed_act s m bytes⟩
  | accepts len now q => exact absurd rfl (hpoll len now q rfl)

/-! ## The statements -/

/-- Settles O17: the operation is one write of the receive slot's memory, whose law says what every address then holds. -/
theorem rxWriteStoresOneByte : Obligations.RxWriteStoresOneByte := by
  intro off wdata s hs
  obtain ⟨m, hm⟩ := write_of_wf (rxb_wf hs.buf0 hs.buf1) off.isLt wdata
  refine ⟨received s m, exec_rxWrite hm, received_frame s m, fun a => ?_, received_act s m⟩
  rw [received_rxb, read_write hm]

/-- Settles O22: what is no commit has an effect that keeps the active frame. -/
theorem activeFrameIsStableBetweenCommits : Obligations.ActiveFrameIsStableBetweenCommits := by
  intro i s t h hcommit hpoll
  obtain ⟨hsel, hsize, hact⟩ := (exec_effect h).keeps_activeFrame hcommit hpoll
  exact ⟨hact, hsize, hsel⟩

/-- Settles O16: the answer is the handle of the slot that is not active. -/
theorem rxBeginAnswersTheReceiveSlot : Obligations.RxBeginAnswersTheReceiveSlot := by
  intro s
  rw [exec_rxBegin, zextSlot_toggle]
  rfl

/-- Settles O18: the two lengths of the range check. -/
theorem rxCommitExchangesTheRoles : Obligations.RxCommitExchangesTheRoles :=
  fun _ s => ⟨fun h => exec_rxCommit_legal h s, fun h => exec_rxCommit_illegal h s⟩

/-- Settles O19: the answer shows the two registers and nothing is written. -/
theorem actInfoAnswersSizeAndSelect : Obligations.ActInfoAnswersSizeAndSelect := exec_actInfo

/-- Settles O20: a sound state's active slot has every byte that an 8-bit offset names. -/
theorem actReadAnswersTheStoredByte : Obligations.ActReadAnswersTheStoredByte := by
  intro off s hs
  obtain ⟨b, hb⟩ := read_of_wf (act_wf hs.buf0 hs.buf1) off.isLt
  exact ⟨b, hb, exec_actRead hb⟩

/-- Settles O21: the handle is the toggled select bit, which the commit makes the select bit; toggling it once more gives the
other handle, and the slots have exchanged their bytes because the memories stay where they are. -/
theorem commitActivatesTheReceiveSlot : Obligations.CommitActivatesTheReceiveSlot := by
  intro s len hlen
  refine ⟨_, _, _, _, zextSlot (1 - s.activeSel), exec_rxBegin s, exec_rxCommit_legal hlen _, exec_actInfo _, exec_rxBegin _,
    rfl, rfl, ?_, commit_act s len, commit_rxb s len⟩
  rw [← zextSlot_eq_one_sub_toggle, answer_result, answer_activeSel, answer_activeSel, commit_activeSel, answer_activeSel,
    toggle_toggle]

end Sys2Proof.Machine

/-! SUPPORT and PROOFS, family `44_watchdog.md`: the enable function in the words of the statements (R155 to R157), which
effect of an operation writes a register of the watchdog (R158, R161), and what a rise of `enabled` tells (R162). -/

namespace Sys2Proof.Machine

open Sys2Proof Sys2Proof.Claims

/-! ## The enable function (R156, R157) -/

theorem exec_wdEval (now : Time) (s : State) :
    exec (.wdEval now) s = .next (s.answer .ok (flagHalf (s.wdEnabled now)) 0) := rfl

theorem enabledAt_eq_true_iff {timeW : Nat} {start last now : Time} {seen : Bool} :
    enabledAt timeW start last seen now = true ↔
      seen = true ∧ 500 < msSince timeW now start ∧ msSince timeW now last ≤ 250 := by
  rw [enabledAt, Bool.and_eq_true, Bool.and_eq_true, decide_eq_true_eq, decide_eq_true_eq, and_assoc, and_left_comm]

/-! ## The registers of the watchdog under each effect (R158, R161) -/

@[simp] theorem flushed_lastCtrlTs (s : State) (m : Memory) (bs : List Byte) : (flushed s m bs).lastCtrlTs = s.lastCtrlTs := rfl
@[simp] theorem flushed_enabled (s : State) (m : Memory) (bs : List Byte) : (flushed s m bs).enabled = s.enabled := rfl

theorem poll_or_ne_poll (i : Instr) :
    (∃ len now q, i = .poll len now q) ∨ ∀ len now q, i ≠ .poll len now q := by
  cases i with
  | poll len now q => exact .inl ⟨len, now, q, rfl⟩
  | _ => exact .inr nofun

/-- R29, R161: what is no `POLL` writes none of the three. -/
theorem Effect.keeps_watchdog {i : Instr} {s t : State} (h : Effect s i t) (hpoll : ∀ len now q, i ≠ .poll len now q) :
    t.enabled = s.enabled ∧ t.lastCtrlTs = s.lastCtrlTs ∧ t.ctrlSeen = s.ctrlSeen := by
  cases h with
  | answers | commits | appends | requests => exact ⟨rfl, rfl, rfl⟩
  | stores => simp
  | flushes now n u hp hf =>
    obtain ⟨m, bytes, -, rfl⟩ := flush_sent_eq_flushed hf
    simp
  | polls len now q | accepts len now q => exact absurd rfl (hpoll len now q)

section
variable {len : Len} {now : Time} {q : Peer} {s t : State}

/-- R191, R193: a `POLL` that accepts no frame leaves the timestamps; one that accepts a frame refreshes them exactly if
the `messageType`, at offset 0 of the frame now active, is that of a control frame. -/
theorem Effect.poll_controlRegisters (h : Effect s (.poll len now q) t) :
    (statusOf t ≠ some .ok ∧ t.lastCtrlTs = s.lastCtrlTs ∧ t.ctrlSeen = s.ctrlSeen) ∨
    (statusOf t = some .ok ∧ ∃ b, t.act.read 0 = some b ∧
      t.lastCtrlTs = (if b = s.cfg.msgControl then s.cfg.clipTime now else s.lastCtrlTs) ∧
      t.ctrlSeen = (decide (b = s.cfg.msgControl) || s.ctrlSeen)) := by
  cases h with
  | answers r hi => exact absurd rfl (hi len now q)
  | appends hwm bytes m hi => cases hi
  | polls len now q st hst =>
    left
    obtain rfl | rfl := hst <;> exact ⟨by simp [statusOf], rfl, rfl⟩
  | accepts len now q b n u hok hb hf =>
    obtain ⟨m, bytes, -, rfl⟩ := flush_sent_eq_flushed hf
    exact .inr ⟨rfl, b, by simpa using hb, by simp [accepted_lastCtrlTs], by simp [accepted_ctrlSeen]⟩

/-- R158, R194: whichever way a `POLL` ends, its last step samples the enable function of the state it leaves. -/
theorem Effect.poll_enabled (h : Effect s (.poll len now q) t) :
    t.enabled = enabledAt t.cfg.timeW t.startTs t.lastCtrlTs t.ctrlSeen now := by
  rw [enabledAt_eq_wdEnabled]
  cases h with
  | answers r hi => exact absurd rfl (hi len now q)
  | appends hwm bytes m hi => cases hi
  | polls | accepts => rfl

end

/-- R162: an operation that turns `enabled` on is a `POLL` whose enable function holds. -/
theorem Effect.rise_of_enabled {i : Instr} {s t : State} (h : Effect s i t) (hs : s.enabled = false)
    (ht : t.enabled = true) : ∃ len now q, i = .poll len now q ∧
      enabledAt t.cfg.timeW t.startTs t.lastCtrlTs t.ctrlSeen now = true := by
  obtain ⟨len, now, q, rfl⟩ | hpoll := poll_or_ne_poll i
  · exact ⟨len, now, q, rfl, h.poll_enabled.symm.trans ht⟩
  · obtain ⟨hkeep, -, -⟩ := h.keeps_watchdog hpoll
    rw [hkeep, hs] at ht
    cases ht

/-! ## The statements -/

/-- Settles O34: what is no `POLL` keeps both registers; a `POLL` refreshes them exactly by its status and the byte at
offset 0 of the active slot. -/
theorem onlyAcceptedControlFramesRefresh : Obligations.OnlyAcceptedControlFramesRefresh := by
  intro i s t h
  have he := exec_effect h
  obtain ⟨len, now, q, rfl⟩ | hpoll := poll_or_ne_poll i
  · obtain ⟨hst, hlast, hseen⟩ | ⟨hst, b, hb, hlast, hseen⟩ := he.poll_controlRegisters
    · exact .inl ⟨hlast, hseen, fun _ _ _ _ hok => absurd hok hst⟩
    · by_cases hctrl : b = s.cfg.msgControl
      · subst hctrl
        exact .inr ⟨len, now, q, rfl, hst, hb, by simpa [Config.clipTime] using hlast, by simpa using hseen⟩
      · exact .inl ⟨by simpa [hctrl] using hlast, by simpa [hctrl] using hseen, by simp [hb, hctrl]⟩
  · obtain ⟨-, hlast, hseen⟩ := he.keeps_watchdog hpoll
    exact .inl ⟨hlast, hseen, fun len now q e => absurd e (hpoll len now q)⟩

/-- Settles O35: the last step of every `POLL` samples the enable function, and no other effect writes `enabled`. -/
theorem enabledIsSampledByEveryPoll : Obligations.EnabledIsSampledByEveryPoll := by
  intro i s t h
  have he := exec_effect h
  refine ⟨fun hpoll => (he.keeps_watchdog hpoll).left, fun len now q hi => ?_⟩
  subst hi
  exact he.poll_enabled

/-- Settles O36: a reset clears `enabled` and an idle step keeps it, so the step ran an operation that turns it on. -/
theorem enabledRisesOnlyOnRecentControl : Obligations.EnabledRisesOnlyOnRecentControl := by
  intro s t h hs ht
  obtain ⟨-, rfl⟩ | ⟨p, rest, hin, ⟨-, rfl⟩ | ⟨hr, hv, hx⟩ | ⟨-, -, rfl⟩⟩ := step_cases h
  · exact absurd (hs.symm.trans ht) Bool.false_ne_true
  · cases ht
  · have he := exec_effect hx
    obtain ⟨len, now, q, hi, hen⟩ := he.rise_of_enabled hs ht
    obtain ⟨hcfg, hstart, -, -⟩ := he.keeps_constants
    rw [hcfg, hstart] at hen
    obtain ⟨hseen, hup, hage⟩ := enabledAt_eq_true_iff.mp hen
    exact ⟨p, rest, len, now, q, hin, hr, hv, congrArg Except.ok hi, hseen, hup, hage⟩
  · exact absurd (hs.symm.trans ht) Bool.false_ne_true

/-- Settles O33: the answer shows the enable function as a flag and nothing is written. -/
theorem wdEvalAnswersTheEnableFunction : Obligations.WdEvalAnswersTheEnableFunction := by
  intro now s
  rw [exec_wdEval, enabledAt_eq_wdEnabled]
  rfl

end Sys2Proof.Machine

/-! SUPPORT and PROOFS, family `45_assembler.md`: the guarded append as each of its rows runs it (R165 to R169), sequences of
appends (R179), the request, the inspections and the flush without a peer (R170 to R176), and why no step tears a bundle
(R180). -/

namespace Sys2Proof.Machine

open Sys2Proof Sys2Proof.Claims

/-! ## Whole bundles (R74, R180) -/

/-- R180 speaks of `TXBUF` and the cursor and of nothing else. -/
theorem State.WholeBundles.congr {s t : State} (hs : s.WholeBundles) (hm : t.txbuf = s.txbuf)
    (hc : t.txCursor = s.txCursor) : t.WholeBundles := by
  rwa [State.WholeBundles, hm, hc]

/-- With the cursor at the header there is no bundle that could be torn. -/
theorem wholeBundles_of_cursor_eq {s : State} (hc : s.txCursor = 6) : s.WholeBundles :=
  ⟨[], [], rfl, by simp [hc]⟩

/-- What an append writes is one outbound bundle: a wire row of R74 is encoded by it. -/
theorem exists_encode_eq_of_appendOf {cfg : Config} {i : Instr} {hwm : Nat} {bytes : List Byte}
    (h : appendOf cfg i = some (hwm, bytes)) : ∃ b, encode b = .wire bytes := by
  cases i with
  | txAppend8 id v | bundleU8 id v => cases h; exact ⟨.bundleU8 id v, rfl⟩
  | txAppend16 id v | bundleU16 id v => cases h; exact ⟨.bundleU16 id v, rfl⟩
  | txAppend32 id v | bundleI32 id v => cases h; exact ⟨.bundleI32 id v, rfl⟩
  | _ => cases h

/-- A bundle written at the cursor comes after the bundles that were there, of which it touches no byte. -/
theorem State.WholeBundles.appended {s : State} (hs : s.WholeBundles) {m : Memory} {bytes : List Byte} {b : Instr}
    (hlow : 6 ≤ s.txCursor.toNat) (hroom : s.txCursor.toNat + bytes.length < 512)
    (hm : s.txbuf.writeBytes s.txCursor.toNat bytes = some m) (hb : encode b = .wire bytes) :
    (appended s m bytes.length).WholeBundles := by
  obtain ⟨bundles, pieces, henc, hread⟩ := hs
  have hold : m.readBytes 6 (s.txCursor.toNat - 6) = some pieces.flatten := by
    rw [← hread]
    exact readBytes_congr fun i hi => by rw [read_writeBytes hm, if_neg (by omega)]
  have hsize : s.txCursor.toNat + bytes.length - 6 = (s.txCursor.toNat - 6) + bytes.length := by omega
  refine ⟨bundles ++ [b], pieces ++ [bytes], by simp [henc, hb], ?_⟩
  rw [appended_txCursor_toNat m hroom, hsize]
  change m.readBytes 6 _ = _
  rw [readBytes_add, hold, Option.bind_some, Nat.add_sub_cancel' hlow, readBytes_writeBytes_self hm]
  simp

/-- Appends extend the region by one bundle, flushes empty it, and the other effects leave it alone. -/
theorem Effect.keeps_wholeBundles {i : Instr} {s t : State} (h : Effect s i t) (hs : s.Sound) (hw : s.WholeBundles) :
    t.WholeBundles := by
  cases h with
  | answers | commits | requests | polls => exact hw.congr rfl rfl
  | stores off v m => exact hw.congr (setMem_receive_txbuf s m) (setMem_txCursor s _ m)
  | appends hwm bytes m hi hp hc hm =>
    have hroom := appendOf_room hs.cfg hi
    obtain ⟨b, hb⟩ := exists_encode_eq_of_appendOf hi
    exact hw.appended hs.cursorLow (by omega) hm hb
  | flushes now n u hp hf =>
    obtain ⟨m, bytes, -, rfl⟩ := flush_sent_eq_flushed hf
    exact wholeBundles_of_cursor_eq rfl
  | accepts len now q b n u hok hb hf =>
    obtain ⟨m, bytes, -, rfl⟩ := flush_sent_eq_flushed hf
    exact wholeBundles_of_cursor_eq rfl

/-! ## The bytes that an append leaves, address by address (R55) -/

/-- The byte at address `c` once `bytes` stand from `a` up, where `old` stood before. -/
def overwritten (old : Option Byte) (c : Nat) : Nat → List Byte → Option Byte
  | _, [] => old
  | a, b :: bs => if c = a then some b else overwritten old c (a + 1) bs

theorem overwritten_eq (old : Option Byte) (c a : Nat) (bytes : List Byte) :
    overwritten old c a bytes = if a ≤ c ∧ c < a + bytes.length then bytes[c - a]? else old := by
  induction bytes generalizing a with
  | nil => rw [overwritten, if_neg (by simp)]
  | cons b bs ih =>
    rw [overwritten, ih, List.length_cons]
    by_cases hc : c = a
    · subst hc
      simp
    · by_cases hin : a + 1 ≤ c ∧ c < a + 1 + bs.length
      · obtain ⟨d, rfl⟩ := Nat.exists_eq_add_of_le hin.1
        rw [if_neg hc, if_pos hin, if_pos (by omega), show a + 1 + d - a = d + 1 by omega, List.getElem?_cons_succ,
          Nat.add_sub_cancel_left]
      · rw [if_neg hc, if_neg hin, if_neg (by omega)]

theorem read_writeBytes_eq_overwritten {m m' : Memory} {a : Nat} {bytes : List Byte}
    (h : m.writeBytes a bytes = some m') (c : Nat) : m'.read c = overwritten (m.read c) c a bytes := by
  rw [read_writeBytes h, overwritten_eq]

/-! ## The rows that append (R165 to R169) -/

section
variable {i : Instr} {s t : State} {mark : Nat} {bytes : List Byte}

theorem exec_append_dropped (hi : appendOf s.cfg i = some (mark, bytes))
    (h : s.txPending = true ∨ mark ≤ s.txCursor.toNat) : exec i s = .next (s.answer .dropped 0 s.txCursor) := by
  rw [exec_of_appendOf hi, appendBundle_dropped h]

/-- Below a mark that leaves room for its bundle, an append writes the bundle at the cursor. -/
theorem exec_append_accepted (hi : appendOf s.cfg i = some (mark, bytes)) (hroom : mark + bytes.length ≤ 256)
    (hwf : s.txbuf.wf) (hp : s.txPending = false) (hc : s.txCursor.toNat < mark) :
    ∃ m, s.txbuf.writeBytes s.txCursor.toNat bytes = some m ∧ exec i s = .next (appended s m bytes.length) := by
  obtain ⟨m, hm⟩ := writeBytes_of_wf hwf (a := s.txCursor.toNat) (bs := bytes) (by omega)
  exact ⟨m, hm, by rw [exec_of_appendOf hi, appendBundle_accepted hp hc hm]⟩

/-- The status tells which of the two an append did. -/
theorem statusOf_append (hi : appendOf s.cfg i = some (mark, bytes)) (h : exec i s = .next t) :
    (statusOf t = some .ok ↔ s.txPending = false ∧ s.txCursor.toNat < mark) ∧
    (statusOf t ≠ some .ok → t = s.answer .dropped 0 s.txCursor) := by
  rw [exec_of_appendOf hi] at h
  obtain ⟨hno, rfl⟩ | ⟨hp, hc, m, -, rfl⟩ := appendBundle_cases h
  · have hguard : ¬ (s.txPending = false ∧ s.txCursor.toNat < mark) := fun ⟨hp, hc⟩ =>
      hno.elim (by simp [hp]) (Nat.not_le.mpr hc)
    simp [statusOf, hguard]
  · simp [statusOf, appended, hp, hc]

end

/-- The bytes that the statements write out for a row are those that it appends. -/
theorem appendOf_of_bundleImage {i : Instr} {image : List Byte} (h : bundleImage i = some image) (cfg : Config) :
    ∃ mark, markOf cfg i = some mark ∧ appendOf cfg i = some (mark, image) := by
  cases i with
  | txAppend8 | bundleU8 => cases h; exact ⟨_, rfl, rfl⟩
  | txAppend16 | bundleU16 => cases h; exact ⟨_, rfl, by simp [appendOf, bundleBytesU16, be16_eq, twoBytes]⟩
  | txAppend32 | bundleI32 =>
    cases h
    exact ⟨_, rfl, by simp [appendOf, bundleBytesI32, be32_eq, twoBytes, Nat.div_div_eq_div_mul]⟩
  | _ => cases h

/-- R165: with the marks of R6 each kind's mark and size add up to the 255 that the budget of 256 bytes asks for. -/
theorem mark_add_length_eq {cfg : Config} (h8 : cfg.hwmU8 = 252) (h32 : cfg.hwmI32 = 249) {i : Instr} {mark : Nat}
    {bytes : List Byte} (h : appendOf cfg i = some (mark, bytes)) : mark + bytes.length = 255 := by
  cases i with
  | txAppend8 | bundleU8 | txAppend16 | bundleU16 | txAppend32 | bundleI32 => cases h; simp [h8, h32]
  | _ => cases h

/-! ## Sequences of appends (R179) -/

theorem execAll_append {is : List Instr} {s t : State} (h : execAll is s = .next t) (js : List Instr) :
    execAll (is ++ js) s = execAll js t := by
  induction is generalizing s with
  | nil => cases h; rfl
  | cons i is ih =>
    cases hi : exec i s with
    | next u => rw [execAll_cons hi] at h; rw [List.cons_append, execAll_cons hi, ih h]
    | fault r | refused r => rw [execAll, hi] at h; cases h

/-- What holds of the state after `n` appends of 16 bits from cursor 6. -/
structure AfterAppends16 (n : Nat) (t : State) : Prop where
  wf : t.txbuf.wf
  pending : t.txPending = false
  cursor : t.txCursor.toNat = 6 + 4 * min n 62

/-- One more append of 16 bits: it fits exactly if fewer than 62 came before it. -/
theorem AfterAppends16.exec_txAppend16 {n : Nat} {s : State} (hs : AfterAppends16 n s) (id : Byte) (v : Half) :
    ∃ t, exec (.txAppend16 id v) s = .next t ∧ AfterAppends16 (n + 1) t ∧
      statusOf t = some (if n + 1 ≤ 62 then .ok else .dropped) := by
  obtain ⟨hwf, hp, hcur⟩ := hs
  by_cases hn : n + 1 ≤ 62
  · obtain ⟨m, hm, hx⟩ := exec_append_accepted (i := .txAppend16 id v) rfl (by simp) hwf hp (by omega)
    rw [bundleBytesU16_length] at hx
    have hcur' := appended_txCursor_toNat (s := s) m (n := 4) (by omega)
    exact ⟨_, hx, ⟨writeBytes_wf hm hwf, hp, by omega⟩, by rw [if_pos hn]; rfl⟩
  · exact ⟨_, exec_append_dropped (i := .txAppend16 id v) rfl (.inr (by omega)), ⟨hwf, hp, by rw [answer_txCursor]; omega⟩,
      by rw [if_neg hn]; rfl⟩

/-- Appends are counted from the end of the sequence, where the one that the status is of stands. -/
theorem execAll_txAppend16 {s : State} (hs : AfterAppends16 0 s) (ops : List (Byte × Half)) :
    ∃ t, execAll (ops.map fun o => .txAppend16 o.1 o.2) s = .next t ∧ AfterAppends16 ops.length t ∧
      (ops ≠ [] → statusOf t = some (if ops.length ≤ 62 then .ok else .dropped)) := by
  induction ops using List.reverseRecOn with
  | nil => exact ⟨s, rfl, hs, absurd rfl⟩
  | append_singleton ops o ih =>
    obtain ⟨t, ht, hinv, -⟩ := ih
    obtain ⟨u, hu, hinv', hst⟩ := hinv.exec_txAppend16 o.1 o.2
    rw [List.map_append, execAll_append ht, List.length_append]
    exact ⟨u, execAll_cons hu [], hinv', fun _ => hst⟩

/-! ## The request, the inspections and the flush without a peer (R170 to R176) -/

theorem exec_txRequest (s : State) : exec .txRequest s = .next ({ s with txPending := true }.answer .ok 0 0) := rfl

theorem exec_txInfo (s : State) : exec .txInfo s = .next (s.answer .ok (flagHalf s.txPending) s.txCursor) := rfl

theorem exec_txRead {off b : Byte} {s : State} (h : s.txbuf.read off.toNat = some b) :
    exec (.txRead off) s = .next (s.answer .ok (zextByte b) 0) := by
  change execTxRead off s = _
  rw [execTxRead, h]
  rfl

theorem exec_txFlush_no_peer {now : Time} {s : State} (h : s.peerValid = false) :
    exec (.txFlush now) s = .next (s.raise .noPeer) := by
  change execTxFlush now s = _
  rw [execTxFlush, flush_no_peer now h]
  rfl

/-! ## The statements -/

/-- Settles O48: a reset empties the region, an idle step keeps it, and so does every effect of an operation. -/
theorem stepKeepsWholeBundles : Obligations.StepKeepsWholeBundles := by
  intro s t hs hw h
  obtain ⟨-, rfl⟩ | ⟨p, rest, -, ⟨-, rfl⟩ | ⟨-, -, he⟩ | ⟨-, -, rfl⟩⟩ := step_cases h
  · exact hw.congr rfl rfl
  · exact afterReset_wholeBundles _ _ _ _ _
  · exact (exec_effect he).keeps_wholeBundles (hs.with_inputs rest) (hw.congr rfl rfl)
  · exact hw.congr rfl rfl

/-- Settles O37: the guarded append of the byte form; a legal mark leaves room for it. -/
theorem append8WritesThreeBytes : Obligations.Append8WritesThreeBytes := by
  intro id v s
  have hi : appendOf s.cfg (.txAppend8 id v) = some (s.cfg.hwmU8.toNat, [0x02, id, v]) := rfl
  refine ⟨exec_append_dropped hi, fun hp hc hcfg hwf => ?_⟩
  have hroom := appendOf_room hcfg hi
  obtain ⟨m, hm, hx⟩ := exec_append_accepted hi (by omega) hwf hp hc
  exact ⟨_, hx, rfl, read_writeBytes_eq_overwritten hm⟩

/-- Settles O38: the guarded append of the 16-bit form, whose mark is the fixed 251. -/
theorem append16WritesFourBytes : Obligations.Append16WritesFourBytes := by
  intro id v s
  have hi : appendOf s.cfg (.txAppend16 id v) =
      some (251, [0x03, id, BitVec.ofNat 8 (v.toNat / 256), BitVec.ofNat 8 v.toNat]) := by
    rw [appendOf, bundleBytesU16, be16_eq]
  refine ⟨exec_append_dropped hi, fun hp hc hwf => ?_⟩
  obtain ⟨m, hm, hx⟩ := exec_append_accepted hi (by simp) hwf hp hc
  exact ⟨_, hx, rfl, read_writeBytes_eq_overwritten hm⟩

/-- Settles O39: the guarded append of the 32-bit form; a legal mark leaves room for it. -/
theorem append32WritesSixBytes : Obligations.Append32WritesSixBytes := by
  intro id v s
  have hi : appendOf s.cfg (.txAppend32 id v) = some (s.cfg.hwmI32.toNat, [0x05, id, BitVec.ofNat 8 (v.toNat / 16777216),
      BitVec.ofNat 8 (v.toNat / 65536), BitVec.ofNat 8 (v.toNat / 256), BitVec.ofNat 8 v.toNat]) := by
    rw [appendOf, bundleBytesI32, be32_eq]
  refine ⟨exec_append_dropped hi, fun hp hc hcfg hwf => ?_⟩
  have hroom := appendOf_room hcfg hi
  obtain ⟨m, hm, hx⟩ := exec_append_accepted hi (by omega) hwf hp hc
  exact ⟨_, hx, rfl, read_writeBytes_eq_overwritten hm⟩

/-- Settles O41: the status follows the mark, and the marks of R6 are the budget of 256 bytes less the bundle and the CRC. -/
theorem appendsTakeEffectWhenTheFrameStillFits : Obligations.AppendsTakeEffectWhenTheFrameStillFits := by
  intro i image s t himage h
  obtain ⟨mark, hmark, hi⟩ := appendOf_of_bundleImage himage s.cfg
  obtain ⟨hok, hdropped⟩ := statusOf_append hi h
  refine ⟨⟨mark, hmark, hok⟩, fun h8 h32 => ?_, hdropped⟩
  have hbudget := mark_add_length_eq h8 h32 hi
  rw [hok]
  exact and_congr_right fun _ => by omega

/-- Settles O42: no append has run yet at cursor 6, and the sequence counts them. -/
theorem sixtyTwoAppends16Fit : Obligations.SixtyTwoAppends16Fit := by
  intro s ops hwf hcur hp
  obtain ⟨t, ht, hinv, hst⟩ := execAll_txAppend16 ⟨hwf, hp, by simp [hcur]⟩ ops
  exact ⟨t, ht, hinv.cursor, hst⟩

/-- Settles O43: the request writes the flag and nothing else. -/
theorem txRequestSetsThePendingFlag : Obligations.TxRequestSetsThePendingFlag := exec_txRequest

/-- Settles O44: the answer shows the flag and the cursor and nothing is written. -/
theorem txInfoAnswersFlagAndCursor : Obligations.TxInfoAnswersFlagAndCursor := exec_txInfo

/-- Settles O45: a sound state's `TXBUF` has every byte that an 8-bit offset names. -/
theorem txReadAnswersTheStoredByte : Obligations.TxReadAnswersTheStoredByte := by
  intro off s hs
  obtain ⟨b, hb⟩ := read_of_wf hs.txbuf off.isLt
  exact ⟨b, hb, exec_txRead hb⟩

/-- Settles O46: with no peer the flush does nothing, so the row raises `NO_PEER`. -/
theorem flushWithoutPeerChangesNothing : Obligations.FlushWithoutPeerChangesNothing :=
  fun _ _ h => exec_txFlush_no_peer h

end Sys2Proof.Machine

/-! SUPPORT and PROOFS, family `46_poll.md`: the three ways a `POLL` ends (R190 to R194), the state that the whole cycle
leaves, and the events that an operation emits (R12, R195). -/

namespace Sys2Proof.Machine

open Sys2Proof Sys2Proof.Claims

/-! ## The answers of `RX.DECODE` as verdicts on the frame (R112) -/

theorem exec_rxDecode_ok_iff {len : Len} {s : State} :
    exec (.rxDecode len) s = .next (answered s .ok 0 0) ↔ frameOk s.cfg s.rxb len = some true := by
  rw [exec_rxDecode_eq_next]
  constructor
  · rintro ⟨_ | _, hok, hans⟩
    · simpa [answered] using congrArg State.result hans
    · exact hok
  · exact fun hok => ⟨true, hok, rfl⟩

theorem exec_rxDecode_rejected_iff {len : Len} {s : State} :
    exec (.rxDecode len) s = .next (answered s .rejected 0 0) ↔ frameOk s.cfg s.rxb len = some false := by
  rw [exec_rxDecode_eq_next]
  constructor
  · rintro ⟨_ | _, hok, hans⟩
    · exact hok
    · simpa [answered] using congrArg State.result hans
  · exact fun hok => ⟨false, hok, rfl⟩

/-! ## The three ways a `POLL` ends (R191) -/

/-- R192: what accepts nothing has no control bit to show and no length to report. -/
theorem endPoll_unaccepted (st : Status) (now : Time) (s : State) :
    endPoll st false 0 now s = polledOnly s st (s.wdEnabled now) := by
  simp [endPoll, polledOnly, pollResA, State.answer]

theorem exec_poll_no_data (now : Time) (q : Peer) (s : State) :
    exec (.poll 0 now q) s = .next (polledOnly s .noData (s.wdEnabled now)) := by
  change execPoll 0 now q s = _
  rw [execPoll, if_pos rfl, endPoll_unaccepted]

section
variable {len : Len} {now : Time} {q : Peer} {s : State}

theorem exec_poll_rejected (hlen : len ≠ 0) (hok : frameOk s.cfg s.rxb len = some false) :
    exec (.poll len now q) s = .next (polledOnly s .rejected (s.wdEnabled now)) := by
  change execPoll len now q s = _
  rw [execPoll, if_neg hlen, decodeOk, hok, ← endPoll_unaccepted]
  rfl

theorem exec_poll_accepted {b : Byte} {r : Flushed × State} (hlen : len ≠ 0)
    (hok : frameOk s.cfg s.rxb len = some true) (hb : s.rxb.read 0 = some b)
    (hf : flush now (accepted len now q (decide (b = s.cfg.msgControl)) s) = some r) :
    exec (.poll len now q) s = .next (endPoll .ok (decide (b = s.cfg.msgControl)) r.1.length now r.2) := by
  change execPoll len now q s = _
  rw [execPoll, if_neg hlen, decodeOk, hok, Option.bind_some, if_pos rfl, pollAccept_eq, hb, Option.bind_some, hf]
  rfl

/-- R6: a legal `MIN_FRAME_LEN` is above 0, so an accepted frame is no missing datagram. -/
theorem frameOk_true_ne_zero (hcfg : s.cfg.legal) (hok : frameOk s.cfg s.rxb len = some true) : len ≠ 0 := by
  rintro rfl
  obtain ⟨hmin, -⟩ := frameOk_true_range hok
  exact absurd (hcfg.1.trans hmin) (by decide)

end

/-- R191, steps 3 to 7, as one update of the state before the `POLL`: commit, peer and refresh, then the flush, then the
enable function of the refreshed registers. -/
theorem endPoll_flushed_accepted (len n : Len) (now : Time) (q : Peer) (c : Bool) (s : State) (m : Memory)
    (frame : List Byte) : endPoll .ok c n now (flushed (accepted len now q c s) m frame) =
      { s with
        activeSel := 1 - s.activeSel, activeSize := len, peer := s.cfg.clipPeer q, peerValid := true
        lastCtrlTs := (accepted len now q c s).lastCtrlTs, ctrlSeen := (accepted len now q c s).ctrlSeen
        enabled := (accepted len now q c s).wdEnabled now
        txbuf := m, txCursor := 6, txPending := false
        events := s.events ++ (if c then [.ctrlStrobe] else []) ++ [.txFrame (s.cfg.clipPeer q) frame]
        result := some ⟨.ok, pollResA c ((accepted len now q c s).wdEnabled now), n⟩ } := by
  rw [← accepted_events len now q c s]
  cases c <;> rfl

/-- The reply of an accepting `POLL`, in the words of the statements: the flush meets the refreshed registers. -/
theorem flush_accepted_spec {s : State} (hs : s.Sound) (len : Len) (now : Time) (q : Peer) (c : Bool) :
    ∃ m bundles frame, s.txbuf.readBytes 6 (s.txCursor.toNat - 6) = some bundles ∧
      frame = feedbackFrame s.cfg s.startTs (accepted len now q c s).lastCtrlTs (accepted len now q c s).ctrlSeen now
        bundles ∧
      flush now (accepted len now q c s) =
        some (.sent (s.txCursor + 2), flushed (accepted len now q c s) m frame) ∧
      frame.length = s.txCursor.toNat + 2 ∧ m.readBytes 0 frame.length = some frame ∧
      ∀ a, frame.length ≤ a → m.read a = s.txbuf.read a := by
  obtain ⟨r, hr⟩ := flush_of_wf now (s := accepted len now q c s) (by simpa using hs.txbuf) (by simpa using hs.cursorLow)
    (by simpa using hs.cursorHigh)
  obtain ⟨m, bundles, -, hb, hread, hrest, rfl⟩ := flush_spec hr (by simp) (by simpa using hs.cursorLow)
  rw [← feedbackFrame_eq] at hr hread
  rw [accepted_txbuf, accepted_txCursor] at hb
  rw [accepted_cfg, accepted_startTs, accepted_txCursor] at hr hread
  rw [accepted_txbuf, accepted_txCursor] at hrest
  have hlen := readBytes_length hread
  exact ⟨m, bundles, _, hb, rfl, hr, hlen, by rwa [hlen], by rwa [hlen]⟩

/-! ## What an operation emits (R12, R195) -/

theorem flush_sent_emits {now : Time} {s t : State} {n : Len} (h : flush now s = some (.sent n, t)) :
    ∃ frame, t.events = s.events ++ [.txFrame s.peer frame] := by
  obtain ⟨m, frame, -, rfl⟩ := flush_sent_eq_flushed h
  exact ⟨frame, rfl⟩

/-- Only the two operations that flush emit, and a strobe comes only before the frame of a `POLL`. -/
theorem Effect.emits {i : Instr} {s t : State} (h : Effect s i t) :
    ∃ new, t.events = s.events ++ new ∧
      (new = [] ∨ (∃ q frame, new = [.txFrame q frame]) ∨ ∃ q frame, new = [.ctrlStrobe, .txFrame q frame]) ∧
      ((∀ now, i ≠ .txFlush now) → (∀ len now q, i ≠ .poll len now q) → new = []) ∧
      ((∀ len now q, i ≠ .poll len now q) → .ctrlStrobe ∉ new) := by
  cases h with
  | answers | stores | commits | appends | requests | polls =>
    exact ⟨[], by simp [appended], .inl rfl, fun _ _ => rfl, fun _ => List.not_mem_nil⟩
  | flushes now n u hp hf =>
    obtain ⟨frame, hev⟩ := flush_sent_emits hf
    exact ⟨_, hev, .inr (.inl ⟨_, _, rfl⟩), fun hflush => absurd rfl (hflush now), by simp⟩
  | accepts len now q b n u hok hb hf =>
    obtain ⟨frame, hev⟩ := flush_sent_emits hf
    rw [accepted_events, List.append_assoc] at hev
    refine ⟨_, hev, .inr ?_, fun _ hpoll => absurd rfl (hpoll len now q), fun hpoll => absurd rfl (hpoll len now q)⟩
    by_cases hctrl : b = s.cfg.msgControl
    · exact .inr ⟨_, _, by rw [if_pos (decide_eq_true hctrl)]; rfl⟩
    · exact .inl ⟨_, _, by rw [if_neg (by simpa using hctrl)]; rfl⟩

theorem Effect.poll_status {len : Len} {now : Time} {q : Peer} {s t : State} (h : Effect s (.poll len now q) t) :
    statusOf t = some .noData ∨ statusOf t = some .rejected ∨ statusOf t = some .ok := by
  cases h with
  | answers r hi => exact absurd rfl (hi len now q)
  | appends hwm bytes m hi => cases hi
  | polls len now q st hst =>
    obtain rfl | rfl := hst
    · exact .inl rfl
    · exact .inr (.inl rfl)
  | accepts => exact .inr (.inr rfl)

/-! ## The statements -/

/-- Settles O49: with no datagram nothing is decoded, and a rejected one is what `RX.DECODE` says it is. -/
theorem pollWithoutAcceptedFrameSamplesEnable : Obligations.PollWithoutAcceptedFrameSamplesEnable := by
  intro len now q s e he
  rw [enabledAt_eq_wdEnabled] at he
  subst he
  refine ⟨fun hlen => ?_, fun hlen hdec => exec_poll_rejected hlen (exec_rxDecode_rejected_iff.mp hdec)⟩
  subst hlen
  exact exec_poll_no_data now q s

/-- Settles O50: the first two clauses are O49; an accepted frame has a first byte, which decides the refresh, and the flush
after it replies from the refreshed registers. -/
theorem pollAcceptsAndReplies : Obligations.PollAcceptsAndReplies := by
  intro len now q s hs
  obtain ⟨hnone, hrejected⟩ := pollWithoutAcceptedFrameSamplesEnable len now q s _ rfl
  refine ⟨hnone, hrejected, fun hdec => ?_⟩
  have hok := exec_rxDecode_ok_iff.mp hdec
  obtain ⟨b, hb⟩ := read_of_wf (rxb_wf hs.buf0 hs.buf1) (a := 0) (by decide)
  obtain ⟨m, bundles, frame, hbundles, hframe, hf, hlen, hread, hrest⟩ :=
    flush_accepted_spec hs len now q (decide (b = s.cfg.msgControl))
  have henabled := enabledAt_eq_wdEnabled (accepted len now q (decide (b = s.cfg.msgControl)) s) now
  rw [accepted_cfg, accepted_startTs] at henabled
  exact ⟨_, b, bundles, _, _, _, _, _, frame, exec_poll_accepted (frameOk_true_ne_zero hs.cfg hok) hok hb hf, hb, rfl,
    accepted_lastCtrlTs .., accepted_ctrlSeen .., henabled.symm, rfl, hbundles, hframe,
    endPoll_flushed_accepted .., by simp, hlen, hread, hrest⟩

/-- Settles O51: the events and the status of each effect of an operation. -/
theorem operationsEmitAtMostOneFrame : Obligations.OperationsEmitAtMostOneFrame := by
  intro i s t h
  have he := exec_effect h
  obtain ⟨new, hnew, hshape, hquiet, hstrobe⟩ := he.emits
  refine ⟨new, hnew, hshape, hquiet, hstrobe, fun len now q hi => ?_⟩
  subst hi
  exact he.poll_status

end Sys2Proof.Machine

/-! SUPPORT and PROOFS, family `60_exceptions.md`: which commands are answered with `ILLEGAL` (R84, R85, R200), what a status
other than `OK` leaves (R201), and the idle step (R210). -/

namespace Sys2Proof.Machine

open Sys2Proof Sys2Proof.Claims

/-! ## Malformed commands (R84, R85, R200) -/

theorem exec_malformed {i : Instr} (h : i.wellFormed = false) (s : State) : exec i s = .next (s.raise .illegal) := by
  cases i with
  | crc16 sel len =>
    have hbad : 256 < len.toNat ∨ sel = 3 := by
      simp only [Instr.wellFormed, Bool.and_eq_false_iff, decide_eq_false_iff_not, not_not, not_le] at h
      exact h.symm
    exact exec_crc16_illegal hbad s
  | rxCommit len => exact exec_rxCommit_illegal (Nat.not_le.mp (of_decide_eq_false h)) s
  | reserved00 | reserved14 | reserved15 | reserved16 | reserved17 | reserved18 | reserved19 | reserved1A | reserved1B
  | reserved1C | reserved1D | reserved1E | reserved1F => rfl
  | _ => cases h

/-! ## Well-formed commands (R200) -/

/-- The operation that left `t` answered, and not that its command was malformed. -/
def Served (t : State) : Prop := ∃ r, t.result = some r ∧ r.st ≠ .illegal

theorem served_ok (s : State) (a : Half) (b : Len) : Served (s.answer .ok a b) := ⟨_, rfl, nofun⟩

theorem served_notFound (s : State) : Served (s.raise .notFound) := ⟨_, rfl, nofun⟩

theorem served_of_access {α : Type} {o : Option α} {f : α → State} {t : State} (h : access (o.map f) = .next t)
    (hf : ∀ x, Served (f x)) : Served t := by
  rw [access_eq_next, Option.map_eq_some_iff] at h
  obtain ⟨x, -, rfl⟩ := h
  exact hf x

theorem appendBundle_served {hwm : Nat} {bytes : List Byte} {s t : State} (h : appendBundle hwm bytes s = .next t) :
    Served t := by
  obtain ⟨-, rfl⟩ | ⟨-, -, m, -, rfl⟩ := appendBundle_cases h <;> exact ⟨_, rfl, nofun⟩

theorem exec_bndComp_served {id idx : Byte} {s t : State} (h : exec (.bndComp id idx) s = .next t) : Served t := by
  have hbnd := h
  change execBndComp id idx s = _ at hbnd
  rw [execBndComp, access_eq_next, Option.bind_eq_some_iff] at hbnd
  obtain ⟨l, hl, -⟩ := hbnd
  cases l with
  | notFound =>
    rw [exec_bndComp_notFound idx hl] at h
    cases h
    exact served_notFound s
  | found p n =>
    rw [exec_bndComp_found idx hl] at h
    split at h
    · cases h
      exact served_notFound s
    · exact served_of_access h fun b => served_ok s _ _

theorem Effect.poll_served {len : Len} {now : Time} {q : Peer} {s t : State} (h : Effect s (.poll len now q) t) :
    Served t := by
  cases h with
  | answers r hi => exact absurd rfl (hi len now q)
  | appends hwm bytes m hi => cases hi
  | polls len now q st hst => obtain rfl | rfl := hst <;> exact ⟨_, rfl, nofun⟩
  | accepts => exact served_ok _ _ _

/-- Row by row: of the statuses that a row of a well-formed command answers none is `ILLEGAL`. -/
theorem exec_wellFormed_served {i : Instr} {s t : State} (hi : i.wellFormed = true) (h : exec i s = .next t) :
    Served t := by
  cases i with
  | crc16 sel len =>
    obtain ⟨hsel, hlen⟩ : sel ≠ 3 ∧ len.toNat ≤ 256 := by simpa [Instr.wellFormed] using hi
    rw [exec_crc16_legal hlen hsel] at h
    exact served_of_access h fun bytes => served_ok s _ _
  | rxCommit len =>
    rw [exec_rxCommit_legal (of_decide_eq_true hi)] at h
    cases h
    exact served_ok _ _ _
  | rxDecode len =>
    obtain ⟨ok, -, rfl⟩ := exec_rxDecode_eq_next.mp h
    cases ok
    · exact ⟨_, rfl, nofun⟩
    · exact served_ok s 0 0
  | rxBegin | actInfo | wdEval | txInfo | txRequest =>
    cases h
    exact served_ok _ _ _
  | rxWrite | actRead | txRead => exact served_of_access h fun x => served_ok _ _ _
  | bndLocate | bndSize =>
    refine served_of_access h fun l => ?_
    cases l with
    | notFound => exact served_notFound s
    | found p n => exact served_ok s _ _
  | bndComp id idx => exact exec_bndComp_served h
  | txAppend8 | txAppend16 | txAppend32 | bundleU8 | bundleU16 | bundleI32 => exact appendBundle_served h
  | txFlush now =>
    refine served_of_access h fun ⟨f, u⟩ => ?_
    cases f with
    | noPeer => exact ⟨_, rfl, nofun⟩
    | sent n => exact served_ok u 0 n
  | poll len now q => exact (exec_effect h).poll_served
  | reserved00 | reserved14 | reserved15 | reserved16 | reserved17 | reserved18 | reserved19 | reserved1A | reserved1B
  | reserved1C | reserved1D | reserved1E | reserved1F => cases hi

/-! ## A status other than `OK` (R201) -/

/-- Each effect that writes more than the result and `enabled` ends with `OK`. -/
theorem Effect.keeps_all_but_enabled {i : Instr} {s t : State} {r : Result} (h : Effect s i t) (hr : t.result = some r)
    (hst : r.st ≠ .ok) : t = { s with enabled := t.enabled, result := some r } := by
  cases h with
  | answers | polls =>
    cases hr
    rfl
  | stores | commits | appends | requests | flushes | accepts =>
    cases hr
    exact absurd rfl hst

/-! ## The idle step (R210) -/

theorem step_not_presented {s : State} {p : Ports} {rest : List Ports} (hin : s.inputs = p :: rest) (hr : p.rst = false)
    (hv : p.cmdValid = false) : step s = .next { s with inputs := rest }.idle := by
  rw [step_cons hin, stepPorts, hr, hv]
  rfl

/-! ## The statements -/

/-- Settles O53: a malformed command raises `ILLEGAL`, and no row of a well-formed one answers it. -/
theorem illegalExactlyForMalformedCommands : Obligations.IllegalExactlyForMalformedCommands := by
  intro i s t h
  cases hi : i.wellFormed with
  | false =>
    rw [exec_malformed hi] at h
    cases h
    exact ⟨_, rfl, iff_of_true rfl rfl⟩
  | true =>
    obtain ⟨r, hr, hst⟩ := exec_wellFormed_served hi h
    exact ⟨r, hr, iff_of_false hst nofun⟩

/-- Settles O54: of the effects of an operation only bare answers and `POLL`s that accept nothing end without `OK`. -/
theorem nonOkStatusesChangeNothing : Obligations.NonOkStatusesChangeNothing := by
  intro i s t r h hr hst
  have he := exec_effect h
  exact ⟨he.keeps_all_but_enabled hr hst, fun hpoll => (he.keeps_watchdog hpoll).left⟩

/-- Settles O10: both idle steps end in `State.idle`, the second after its sample is taken. -/
theorem idleStepHoldsTheState : Obligations.IdleStepHoldsTheState :=
  ⟨fun _ hin => step_nil hin, fun _ _ _ hin hr hv => step_not_presented hin hr hv⟩

end Sys2Proof.Machine

/-! SUPPORT and PROOFS, family `70_reset_and_hazards.md`: the reset by a sample (R220), what each operation first answers
after a reset (R221), and that in a sound state every operation and every step answers a next state (R236). -/

namespace Sys2Proof.Machine

open Sys2Proof Sys2Proof.Claims

/-! ## The reset by a sample (R220) -/

theorem step_reset {s : State} {p : Ports} {rest : List Ports} (hin : s.inputs = p :: rest) (hr : p.rst = true) :
    step s = .next (State.afterReset s.cfg (s.resets + 1) p.now rest s.events) := by
  rw [step_cons hin, stepPorts, if_pos hr]
  rfl

/-! ## First answers (R221) -/

/-- An empty active frame has no bundle: the scan's first test fails. -/
theorem locate_of_activeSize_zero {s : State} (h : s.activeSize = 0) (id : Byte) : locate id s = some .notFound := by
  rw [locate_eq_scanFrom, h]
  exact scanFrom_end id (by decide)

theorem wdEnabled_of_not_seen {s : State} (h : s.ctrlSeen = false) (now : Time) : s.wdEnabled now = false := by
  rw [State.wdEnabled, h, Bool.and_false, Bool.false_and]

/-- The first append after a reset stands at the header's end and answers the cursor after its bytes. -/
theorem afterReset_append_accepted {cfg : Config} {i : Instr} {mark : Nat} {bytes : List Byte}
    (hi : appendOf cfg i = some (mark, bytes)) (hroom : mark + bytes.length ≤ 256) (hmark : 6 < mark) (n : Nat) (t : Time)
    (ins : List Ports) (evs : List Event) : ∃ u, exec i (State.afterReset cfg n t ins evs) = .next u ∧
      u.result = some ⟨.ok, 0, 6 + BitVec.ofNat 9 bytes.length⟩ := by
  obtain ⟨m, -, hx⟩ := exec_append_accepted (s := State.afterReset cfg n t ins evs) hi hroom
    (freshMemory_wf n .txbuf) rfl hmark
  exact ⟨_, hx, rfl⟩

/-! ## Every operation answers in a sound state (R200, R236) -/

/-- R56: an operation of one access answers wherever the access exists. -/
theorem access_map_answers {α : Type} {o : Option α} (h : ∃ x, o = some x) (f : α → State) :
    ∃ t, access (o.map f) = .next t := by
  obtain ⟨x, rfl⟩ := h
  exact ⟨f x, rfl⟩

section
variable {s : State} (hs : s.Sound)
include hs

theorem State.Sound.append_answers {i : Instr} {mark : Nat} {bytes : List Byte}
    (hi : appendOf s.cfg i = some (mark, bytes)) : ∃ t, exec i s = .next t := by
  have hroom := appendOf_room hs.cfg hi
  by_cases hdrop : s.txPending = true ∨ mark ≤ s.txCursor.toNat
  · exact ⟨_, exec_append_dropped hi hdrop⟩
  · obtain ⟨hp, hc⟩ := not_or.mp hdrop
    obtain ⟨m, -, hx⟩ := exec_append_accepted hi (by omega) hs.txbuf (by simpa using hp) (by omega)
    exact ⟨_, hx⟩

theorem State.Sound.crc16_answers (sel : BitVec 2) (len : Len) : ∃ t, exec (.crc16 sel len) s = .next t := by
  by_cases hbad : 256 < len.toNat ∨ sel = 3
  · exact ⟨_, exec_crc16_illegal hbad s⟩
  · obtain ⟨hlen, hsel⟩ := not_or.mp hbad
    rw [exec_crc16_legal (by omega) hsel]
    exact access_map_answers (readBytes_of_wf (selectedMem_wf hs sel) (by omega)) _

/-- R131: an address above 255 is never accessed. -/
theorem State.Sound.bndComp_answers (id idx : Byte) : ∃ t, exec (.bndComp id idx) s = .next t := by
  obtain ⟨l, hl⟩ := hs.locate_answers id
  cases l with
  | notFound => exact ⟨_, exec_bndComp_notFound idx hl⟩
  | found p n =>
    rw [exec_bndComp_found idx hl]
    split
    · exact ⟨_, rfl⟩
    · exact access_map_answers (read_of_wf (act_wf hs.buf0 hs.buf1) (by omega)) _

/-- The three ways a `POLL` ends: no datagram, a rejected one, an accepted one with its reply. -/
theorem State.Sound.poll_answers (len : Len) (now : Time) (q : Peer) : ∃ t, exec (.poll len now q) s = .next t := by
  have hrxb := rxb_wf hs.buf0 hs.buf1
  by_cases hlen : len = 0
  · subst hlen
    exact ⟨_, exec_poll_no_data now q s⟩
  · obtain ⟨ok, hok⟩ := frameOk_of_wf hs.cfg hrxb len
    cases ok with
    | false => exact ⟨_, exec_poll_rejected hlen hok⟩
    | true =>
      obtain ⟨b, hb⟩ := read_of_wf hrxb (a := 0) (by decide)
      obtain ⟨m, _, frame, -, -, hf, -⟩ := flush_accepted_spec hs len now q (decide (b = s.cfg.msgControl))
      exact ⟨_, exec_poll_accepted hlen hok hb hf⟩

/-- Row by row: the addresses that a row accesses are all below 256, where a sound state has a byte. -/
theorem State.Sound.exec_answers (i : Instr) : ∃ t, exec i s = .next t := by
  have hact := act_wf hs.buf0 hs.buf1
  have hrxb := rxb_wf hs.buf0 hs.buf1
  cases i with
  | crc16 sel len => exact hs.crc16_answers sel len
  | rxWrite off v => exact access_map_answers (write_of_wf hrxb off.isLt v) _
  | rxDecode len => exact access_map_answers (frameOk_of_wf hs.cfg hrxb len) _
  | rxCommit len =>
    by_cases hlen : 256 < len.toNat
    · exact ⟨_, exec_rxCommit_illegal hlen s⟩
    · exact ⟨_, exec_rxCommit_legal (by omega) s⟩
  | actRead off => exact access_map_answers (read_of_wf hact off.isLt) _
  | bndLocate id | bndSize id => exact access_map_answers (hs.locate_answers id) _
  | bndComp id idx => exact hs.bndComp_answers id idx
  | txAppend8 | txAppend16 | txAppend32 | bundleU8 | bundleU16 | bundleI32 => exact hs.append_answers rfl
  | txFlush now => exact access_map_answers (flush_of_wf now hs.txbuf hs.cursorLow hs.cursorHigh) _
  | txRead off => exact access_map_answers (read_of_wf hs.txbuf off.isLt) _
  | poll len now q => exact hs.poll_answers len now q
  | rxBegin | actInfo | wdEval | txRequest | txInfo | reserved00 | reserved14 | reserved15 | reserved16 | reserved17
  | reserved18 | reserved19 | reserved1A | reserved1B | reserved1C | reserved1D | reserved1E | reserved1F =>
    exact ⟨_, rfl⟩

theorem State.Sound.step_answers : ∃ t, step s = .next t := by
  cases hin : s.inputs with
  | nil => exact ⟨_, step_nil hin⟩
  | cons p rest =>
    cases hr : p.rst with
    | true => exact ⟨_, step_reset hin hr⟩
    | false =>
      cases hv : p.cmdValid with
      | true =>
        rw [step_presented hin hr hv]
        exact (hs.with_inputs rest).exec_answers _
      | false => exact ⟨_, step_not_presented hin hr hv⟩

end

/-! ## The statements -/

/-- Settles O9: the reset table decides each answer; the lookups scan an empty frame, the watchdog has seen no control frame,
there is no peer to send to, and the header leaves room for each append. -/
theorem firstBehaviourAfterReset : Obligations.FirstBehaviourAfterReset := by
  intro cfg n t ins evs s
  have hloc := locate_of_activeSize_zero (s := s) rfl
  refine ⟨fun hin => step_nil hin, fun id => exec_bndLocate (hloc id), fun id idx => exec_bndComp_notFound idx (hloc id),
    fun id => exec_bndSize_notFound (hloc id), exec_actInfo s, rxBeginAnswersTheReceiveSlot s, exec_txInfo s,
    fun now => exec_txFlush_no_peer rfl, fun now => ?_, fun hcfg hmark id v => ?_, fun id v => ?_,
    fun hcfg hmark id v => ?_⟩
  · rw [exec_wdEval, wdEnabled_of_not_seen (afterReset_ctrlSeen cfg n t ins evs)]
    rfl
  · have hi : appendOf cfg (.txAppend8 id v) = some (cfg.hwmU8.toNat, bundleBytesU8 id v) := rfl
    exact afterReset_append_accepted hi ((appendOf_room hcfg hi).trans (by decide)) hmark n t ins evs
  · have hi : appendOf cfg (.txAppend16 id v) = some (251, bundleBytesU16 id v) := rfl
    exact afterReset_append_accepted hi (by simp) (by decide) n t ins evs
  · have hi : appendOf cfg (.txAppend32 id v) = some (cfg.hwmI32.toNat, bundleBytesI32 id v) := rfl
    exact afterReset_append_accepted hi ((appendOf_room hcfg hi).trans (by decide)) hmark n t ins evs

/-- Settles O60: a step is a reset, an idle step or an operation, and each row of a sound state answers. -/
theorem soundStatesAlwaysStep : Obligations.SoundStatesAlwaysStep :=
  fun _ hs => ⟨hs.step_answers, hs.exec_answers⟩

/-- Settles O7: the sample leaves `State.afterReset`, whose fields are the table's. -/
theorem resetSampleGivesTheResetTable : Obligations.ResetSampleGivesTheResetTable :=
  fun _ _ _ hin hr => ⟨_, step_reset hin hr, rfl, rfl, rfl, rfl, rfl, rfl, rfl, rfl, freshMemory_wf _ .buf0,
    freshMemory_wf _ .buf1, freshMemory_wf _ .txbuf, rfl, rfl, rfl, rfl⟩

/-- Settles O8: the registers are those of `State.afterReset`, the parameters those of `Config.deployed`. -/
theorem stateResetHoldsTheSpecValues : Obligations.StateResetHoldsTheSpecValues :=
  ⟨rfl, rfl, rfl, rfl, rfl, rfl, rfl, rfl, rfl, rfl, rfl, rfl, rfl, rfl, rfl⟩

end Sys2Proof.Machine
